-- ==== Sys2Proof/Word.lean ====
section
/-!
DEFINITION. The words, numbers and sets of the Ilbrix 4H32 (spec 00_scope.md section 5, Conventions).
-/

namespace Sys2Proof

/-- One byte of a link. -/
abbrev Byte := BitVec 8
/-- A field of two bytes. -/
abbrev Half := BitVec 16
/-- A field of four bytes. -/
abbrev Quad := BitVec 32

/-- Heads are numbered 0 to 3. -/
abbrev HeadId := Fin 4
/-- Sites are numbered 0 to 31 within a head. -/
abbrev SiteId := Fin 32
/-- Plan slots are numbered 0 to 7. -/
abbrev SlotId := Fin 8

/-- A set of sites of one head, site 0 in the least significant bit. -/
abbrev SiteSet := BitVec 32
/-- A set of heads, head 0 in the least significant bit. -/
abbrev HeadSet := BitVec 4

/-- The logical level of a Handler Port line (spec 09, section 9.1). -/
inductive LineLevel where
  | low
  | high
  deriving DecidableEq, Repr

/-- The other level. -/
def LineLevel.flip : LineLevel → LineLevel
  | .low => .high
  | .high => .low

/-- The four heads in ascending order. -/
def allHeads : List HeadId := [0, 1, 2, 3]

/-- A vector with the element at one place changed by `f`. -/
def upd {α : Type} {n : Nat} (v : Vector α n) (i : Fin n) (f : α → α) : Vector α n :=
  v.set i.val (f v[i]) i.isLt

/-- A number as an index below `n`, when it is one. -/
def finOf (n k : Nat) : Option (Fin n) := if h : k < n then some ⟨k, h⟩ else none

end Sys2Proof
end

