-- ==== Sys2Proof/Syntax.lean ====
section
/-!
DEFINITION. The commands of the part: one constructor for each row of spec/opcode_table.json.

A host request carries its tag and then the fields of its body in the order and width of the table of R186, so
every body of an allowed size is the body of exactly one command, whatever the values of its fields.
Frames and messages that arrive whole carry the fields of their layouts (spec 11, sections 11.4 and 11.5).
-/

namespace Sys2Proof

/-- A region descriptor as it stands in a PLAN_LOAD body (spec 11, section 11.3). -/
structure RegionBody where
  bank : Byte
  rowBase : Half
  rowLimit : Half
  columnBase : Half
  columnLimit : Half
  spareRows : Byte
  spareColumns : Byte
  policy : Byte
  deriving DecidableEq, Repr

/-- A PLAN_LOAD body (spec 11, section 11.3). -/
structure PlanBody where
  slot : Byte
  patternId : Quad
  planClass : Byte
  joinSet : Byte
  quota : Half
  expiry : Byte
  masks : Byte
  autoAnalyse : Byte
  autoBudget : Half
  outcomeMap : Vector Byte 8
  absentCode : Byte
  regions : List RegionBody
  deriving DecidableEq, Repr

/-- A CONFIGURE body (R181, R186). -/
structure ConfigureBody where
  tallyTimeout : Half
  classMap : Vector Byte 8
  runNotices : Byte
  analysisNotices : Byte
  watchNotices : Byte
  deriving DecidableEq, Repr

/-- An EVENTS_READ body (R180, R186). -/
structure EventsBody where
  partClear : Byte
  headClear : Vector Half 4
  deriving DecidableEq, Repr

/-- A START_CONFIG body (R157, R186). -/
structure StartBody where
  head : Byte
  polarity : Byte
  width : Byte
  wake : Byte
  autoQueue : Byte
  defaultSlot : Byte
  notice : Byte
  deriving DecidableEq, Repr

/-- A WATCH_SET body (R21, R186). -/
structure WatchBody where
  index : Byte
  valid : Byte
  head : Byte
  site : Byte
  bank : Byte
  row : Half
  column : Half
  hold : Byte
  deriving DecidableEq, Repr

/-- The result of a SERVICE_REPLY (R149). -/
inductive ServiceResult where
  | good
  | trip
  | refused
  deriving DecidableEq, Repr

/-- The head whose link a FAIL comes on. `waits` is the model's own: the raises of the word reach the Run Controller
behind the commands that follow, as R133 lets them, and not in the word's own step (log 29). -/
structure FailLink where
  head : HeadId
  waits : Bool := false
  deriving DecidableEq, Repr

/-- The commands. -/
inductive Instr where
  -- the port and the power
  | powerOnReset
  | controlFrameReceive (bytes : List Byte)
  | controlByteDiscard (byte : Byte)
  | requestHandOn
  | frameSent
  -- requests to the Control Link Port
  | identify (tag : Byte)
  | status (tag : Byte)
  | configure (tag : Byte) (body : ConfigureBody)
  | eventsRead (tag : Byte) (body : EventsBody)
  | partReset (tag : Byte)
  -- requests to the Plan Store
  | planLoad (tag : Byte) (body : PlanBody)
  | planRead (tag slot : Byte)
  | planFree (tag slot : Byte)
  -- requests to the Head Managers
  | siteEnable (tag head : Byte) (set : SiteSet)
  | headLink (tag head enable losDetect alignMode : Byte)
  | linkShift (tag head : Byte)
  | supplySet (tag head setting : Byte)
  | headAccess (tag head direction register : Byte) (value : Half)
  | headStandby (tag head : Byte)
  | headWake (tag head : Byte)
  | startConfig (tag : Byte) (body : StartBody)
  | headEvents (tag head : Byte) (enables : Half)
  | headStatus (tag head : Byte)
  | headReset (tag head : Byte)
  -- requests to the Run Arbiter and the Run Controller
  | runRequest (tag head slot : Byte)
  | runCancel (tag head : Byte)
  | arbiterSet (tag enable : Byte)
  | runAbort (tag : Byte)
  | runDropHead (tag head : Byte)
  | runSetMask (tag masks : Byte)
  | resume (tag : Byte)
  | runStatus (tag : Byte)
  | feedReset (tag : Byte)
  -- requests to the Capture Unit, the Site Table, the Repair Allocator and the Bin Ports
  | watchSet (tag : Byte) (body : WatchBody)
  | watchRead (tag index : Byte)
  | tableRead (tag head site : Byte) (start : Half) (count : Byte)
  | siteResult (tag head site : Byte)
  | analyse (tag head : Byte) (budget : Half) (force : Byte)
  | binConfig (tag head format timeout : Byte)
  | binRelease (tag head : Byte)
  | binStatus (tag head : Byte)
  -- the pattern source and the run timer
  | accept (runNumber : Half)
  | decline (reason : Byte)
  | acceptTimeout
  | block (payload : List Byte)
  | gateOpen (limit : Half)
  | gateClose
  | endRecord
  | halted
  | resetDone
  | feedMessageIllFormed (bytes : List Byte)
  | haltTimeout
  | feedResetTimeout
  | tallyTimeoutDeciding
  | tallyTimeoutDraining
  -- frames of the heads to the run
  | fail (head : FailLink) (site bank : Byte) (row column : Half)
  | passTally (head : HeadId) (depth pass : Half) (matched : SiteSet)
  | endTally (head : HeadId)
  -- the analysis engine
  | allocatorMove
  -- the Handler Ports
  | binDelivery (head : HeadId)
  | binStaleExpiry (head : HeadId)
  | startLineChange (head : HeadId) (level : LineLevel)
  | startCandidateExpiry (head : HeadId)
  -- the Head Links, services and supplies
  | alignMarkPlaced (head : HeadId)
  | alignMarkMisplaced (head : HeadId) (position : Fin 16)
  | signalLoss (head : HeadId)
  | reseekTimerExpiry (head : HeadId)
  | headFrameDiscard (head : HeadId) (bytes : List Byte)
  | serviceReply (head : HeadId) (number : Byte) (result : ServiceResult) (value : Half)
  | serviceTimeout (head : HeadId)
  | supplyTrip (head : HeadId)
  | bclkEdge (head : HeadId) (level : LineLevel)
  deriving DecidableEq, Repr

end Sys2Proof
end

