-- ==== Sys2Proof/Config.lean ====
section
/-!
DEFINITION. What the part fixes as constants, and the one value the spec leaves open.
-/

namespace Sys2Proof.Config

/-- The Fail Table holds 4096 entries (R1). -/
def tableSize : Nat := 4096
/-- The Request Window holds at most 8 requests (R175). -/
def windowSize : Nat := 8
/-- At most 8 refusal replies wait to be sent (R174, R177). -/
def refusalLimit : Nat := 8
/-- The Notice Queue holds at most 32 notices (R178). -/
def noticeLimit : Nat := 32
/-- The Feed Hold Buffer holds at most 16 records (R104). -/
def bufferSize : Nat := 16
/-- The Gate Stack holds at most 4 levels (R111). -/
def gateLimit : Nat := 4
/-- The bin frame has 152 bits (R161). -/
def frameBits : Nat := 152

/-- 50 ms in units of 10 µs: the ACCEPT, HALT and FEED_RESET timeouts (R90, R101, R107). -/
def fiftyMs : Nat := 5000
/-- 200 ms in units of 10 µs: a supply service (R149). -/
def supplyTimeout : Nat := 20000
/-- 2 ms in units of 10 µs: a register service (R149). -/
def registerTimeout : Nat := 200
/-- 5 ms in units of 10 µs: HEAD_SLEEP and HEAD_WAKE (R149). -/
def sleepTimeout : Nat := 500
/-- The tally timeout at reset, 10 ms in units of 10 µs (R181). -/
def tallyReset : Half := 1000#16

/-- The sync byte of the Control Link (section 10.1). -/
def syncByte : Byte := 0xA5#8
/-- The part code IDENTIFY answers with (R182). -/
def partCode : Half := 0x4832#16
/-- The revision number IDENTIFY answers with (R182). -/
def revision : Byte := 3#8

/-- FREE VALUE (log 6). R177 has the transmitter send "a frame of the kind that it did not send last";
before it has sent any frame, which kind goes first when both wait is not stated. -/
opaque firstFrameIsReply : Bool

end Sys2Proof.Config
end

