-- ==== Sys2Proof/Machine/State.lean ====
section
/-!
DEFINITION. The state of the part as plain data, block by block (spec 00_scope.md section 3), and its value after
power-on reset. INVENTORY.md lists every field with its rule.
-/

namespace Sys2Proof.Machine

/-! ## The Plan Store (chapter 2) -/

/-- Region policy (R30). -/
inductive Policy where
  | analyse
  | strict
  | ignore
  deriving DecidableEq, Repr

/-- Expiry policy (R32). -/
inductive Expiry where
  | drop
  | continue
  deriving DecidableEq, Repr

/-- A region descriptor (R30). -/
structure Region where
  bank : Byte
  rowBase : Half
  rowLimit : Half
  columnBase : Half
  columnLimit : Half
  spareRows : Nat
  spareColumns : Nat
  policy : Policy
  deriving DecidableEq, Repr

/-- The record of a LOADED slot (R28). -/
structure Plan where
  patternId : Quad
  planClass : Fin 8
  joinSet : HeadSet
  quota : Nat
  expiry : Expiry
  masks : BitVec 7
  autoAnalyse : Bool
  autoBudget : Half
  outcomeMap : Vector (BitVec 4) 8
  absentCode : BitVec 4
  regions : List Region
  deriving DecidableEq, Repr

/-- A slot: EMPTY when the record is absent, LOADED otherwise; the use count stands in either state (R28). -/
structure PlanSlot where
  record : Option Plan
  useCount : Nat
  deriving DecidableEq, Repr

/-- The Plan Store: eight slots and the Class Map (R28, R34). -/
structure PlanStore where
  slots : Vector PlanSlot 8
  classMap : Vector (Fin 4) 8
  deriving DecidableEq, Repr

/-! ## The Fail Table and the Watch List (chapter 1) -/

/-- Kind and address of a non-FREE entry (R1). A line has no address on the other axis. -/
inductive EntryKey where
  | cell (row column : Half)
  | rowLine (row : Half)
  | colLine (column : Half)
  deriving DecidableEq, Repr

/-- A non-FREE entry of the Fail Table (R1). -/
structure Entry where
  head : HeadId
  site : SiteId
  region : Nat
  key : EntryKey
  hits : Nat
  deriving DecidableEq, Repr

/-- The Fail Table: the non-FREE entries with their indices, strictly rising. An index not listed is FREE. -/
abbrev FailTable := List (Nat × Entry)

/-- A watch entry; ANY is the absence of a site or a column (R20). -/
structure Watch where
  valid : Bool
  head : HeadId
  site : Option SiteId
  bank : Byte
  row : Half
  column : Option Half
  hold : Bool
  hit : Bool
  deriving DecidableEq, Repr

/-- The run exceptions that a fail word raises (R19). -/
inductive FailCause where
  | watch
  | unmapped
  | quota
  | tableFull
  deriving DecidableEq, Repr

/-- A raise of a fail word, handed to the Run Controller with the run number of the run in which the word was taken
(R128, R133); a region that the cause does not hand over is absent. `follows` says that the same word raised WATCH just
before: the Run Controller takes the two with no other event between them (R19, R133). -/
structure HandedRaise where
  runNumber : Half
  cause : FailCause
  head : HeadId
  site : SiteId
  region : Option Nat
  row : Half
  column : Half
  follows : Bool
  deriving DecidableEq, Repr

/-- The Capture Unit; `raises` are the raises handed on that the Run Controller has not taken yet, oldest first (R133,
log 29). -/
structure CaptureUnit where
  table : FailTable
  watches : Vector Watch 4
  raises : List HandedRaise
  deriving DecidableEq, Repr

/-! ## Site Contexts (chapter 3) and the Repair Allocator (chapter 4) -/

/-- Site states (R44). -/
inductive SiteState where
  | off
  | ready
  | testing
  | parked
  | dropped
  | ended
  | incomplete
  | resolved
  deriving DecidableEq, Repr

/-- Cause of a site's aborted flag (R44). -/
inductive AbortCause where
  | link
  | supply
  | tally
  | host
  | reset
  | feed
  deriving DecidableEq, Repr

/-- Outcome of a RESOLVED site (R58). -/
inductive SiteOutcome where
  | pass
  | repaired
  | noRepair
  | strictFail
  | captureLost
  | matchExpired
  | aborted
  | unresolved
  deriving DecidableEq, Repr

/-- A pair of spare counters, or of working spare counts (R44, R69). -/
structure Spares where
  rows : Nat
  columns : Nat
  deriving DecidableEq, Repr

/-- A line by which spares repair: a row or a column (R74). -/
inductive Line where
  | row (index : Half)
  | col (index : Half)
  deriving DecidableEq, Repr

/-- A line of a repair list with its region (R58). -/
structure RepairLine where
  region : Nat
  line : Line
  deriving DecidableEq, Repr

/-- An element of the choice stack: its line, and whether its alternative has been tried (R71). -/
structure Choice where
  line : Line
  tried : Bool
  deriving DecidableEq, Repr

/-- Phase of the analysis of a region (R57). -/
inductive Phase where
  | closure
  | search
  deriving DecidableEq, Repr

/-- The engine's working state for a site (R69), which is also what an allocator context holds (R57, R76).
The stack's top stands first; `solved` holds the lines of the regions already solved. -/
structure Work where
  region : Nat
  phase : Phase
  lines : List Line
  spares : Spares
  stack : List Choice
  solved : List RepairLine
  deriving DecidableEq, Repr

/-- What a site takes when it enters a run: plan slot, run number and region spares, present together (R44). -/
structure RunEntry where
  slot : SlotId
  runNumber : Half
  spares : List Spares
  deriving DecidableEq, Repr

/-- A Site Context (R44). The aborted flag is set exactly when its cause is present. -/
structure SiteContext where
  state : SiteState
  entry : Option RunEntry
  aborted : Option AbortCause
  captureLost : Bool
  expired : Bool
  strictFail : Bool
  noRepair : Bool
  entriesHeld : Nat
  failCount : Nat
  unmappedCount : Nat
  parkLevel : Option Nat
  context : Option Work
  outcome : Option SiteOutcome
  repairList : Option (List RepairLine)
  deriving DecidableEq, Repr

/-- Origin of an analysis job (R63). -/
inductive JobOrigin where
  | host (tag : Byte)
  | auto
  deriving DecidableEq, Repr

/-- An analysis job (R63). -/
structure Job where
  head : HeadId
  budget : Half
  force : Bool
  origin : JobOrigin
  deriving DecidableEq, Repr

/-- The engine while it serves the oldest job: the steps used (R73), whether a forced job's budget has run out, so
that no steps are left whatever was used (R77), the sites resolved (R79), the number of the site reached (R67) and
the working state of the site under work, if any (R69). -/
structure Engine where
  used : Nat
  spent : Bool
  resolved : Nat
  site : Nat
  work : Option Work
  deriving DecidableEq, Repr

/-- The Repair Allocator: the Analysis Queue, oldest job first, and the engine, idle when absent (R63, R66). -/
structure Allocator where
  jobs : List Job
  engine : Option Engine
  deriving DecidableEq, Repr

/-! ## Runs (chapters 5 and 7) and gates (chapter 6) -/

/-- An entry of the Run Request Queue; its arrival sequence is its place in the queue (R83, log 15). -/
structure QueueEntry where
  head : HeadId
  slot : SlotId
  planClass : Fin 8
  level : Fin 4
  deriving DecidableEq, Repr

/-- The Run Arbiter (R83, R88). -/
structure Arbiter where
  queue : List QueueEntry
  enabled : Bool
  deriving DecidableEq, Repr

/-- Run states (R91). -/
inductive RunState where
  | none
  | starting
  | streaming
  | deciding
  | draining
  | held
  | halting
  deriving DecidableEq, Repr

/-- The seven run exceptions (R128). -/
inductive Cause where
  | gateOverflow
  | gateUnderflow
  | tableFull
  | quota
  | unmapped
  | tallyLate
  | watch
  deriving DecidableEq, Repr

/-- The two non-maskable faults of a run (R129). -/
inductive RunFault where
  | feedFormat
  | feedOverrun
  deriving DecidableEq, Repr

/-- Cause of an abort of the run (R91). -/
inductive RunAbort where
  | host
  | feed
  | groupEmpty
  deriving DecidableEq, Repr

/-- Start failure (R91). -/
inductive StartFailure where
  | decline (reason : Byte)
  | timeout
  deriving DecidableEq, Repr

/-- What a raise hands to the Run Controller (R128); a detail it does not carry is absent. -/
structure Raise where
  cause : Cause
  head : Option HeadId
  site : Option SiteId
  region : Option Nat
  row : Option Half
  column : Option Half
  missing : Option HeadSet
  deriving DecidableEq, Repr

/-- The Hold Record (R134). -/
structure HoldRecord where
  raised : Raise
  recordCount : Quad
  gateDepth : Nat
  phantomDepth : Nat
  more : Bool
  deriving DecidableEq, Repr

/-- The feed records of the pattern source (section 5.4). -/
inductive FeedRecord where
  | block (payload : List Byte)
  | gateOpen (limit : Half)
  | gateClose
  | endRecord
  deriving DecidableEq, Repr

/-- The Run Controller: the Run Record (R91), the Feed Link state (R106, R107), the run timer (R92; the duration it
was set to, in units of 10 µs, when it runs) and the Feed Hold Buffer (R104). Outside a run the slot is absent and
group, masks and tally set are empty. -/
structure RunController where
  runNumber : Half
  slot : Option SlotId
  group : HeadSet
  state : RunState
  returnState : Option RunState
  recordCount : Quad
  exceptions : BitVec 9
  masks : BitVec 7
  hold : Option HoldRecord
  paused : Bool
  tallied : HeadSet
  abortCause : Option RunAbort
  startFailure : Option StartFailure
  linkReady : Bool
  resetPending : Option Byte
  timer : Option Nat
  buffer : List FeedRecord
  deriving DecidableEq, Repr

/-- A level of the Gate Stack (R111). -/
structure GateLevel where
  limit : Nat
  passCount : Nat
  entry : Vector SiteSet 4
  parked : Vector SiteSet 4
  deriving DecidableEq, Repr

/-- The Gate Unit: the levels, the top one first, the phantom depth, and the tally collection set with the match
set of each head that has tallied (R111, R112). -/
structure GateUnit where
  levels : List GateLevel
  phantom : Nat
  collected : Vector (Option SiteSet) 4
  deriving DecidableEq, Repr

/-! ## Heads (chapter 8) -/

/-- Head states (R142). -/
inductive HeadState where
  | offline
  | standby
  | waking
  | idle
  | queued
  | inRun
  | analysis
  | binWait
  deriving DecidableEq, Repr

/-- Link states (R142). -/
inductive LinkState where
  | off
  | seeking
  | locked
  | lost
  deriving DecidableEq, Repr

/-- Align modes (R142). -/
inductive AlignMode where
  | mark
  | manual
  deriving DecidableEq, Repr

/-- Supply states (R142). -/
inductive SupplyState where
  | off
  | ramping
  | on
  | falling
  | fault
  deriving DecidableEq, Repr

/-- Polarity of the START line (R142). -/
inductive Polarity where
  | falling
  | rising
  deriving DecidableEq, Repr

/-- Reject widths of the start filter (R142). -/
inductive RejectWidth where
  | off
  | us250
  | ms1
  | ms4
  deriving DecidableEq, Repr

/-- Operations of the Service Slot (R149); a wake carries its queue mark (R154). -/
inductive ServiceOp where
  | supplyOn
  | supplyOff
  | headRead (register : Byte)
  | headWrite (register : Byte) (value : Half)
  | headSleep
  | headWake (queueMark : Bool)
  deriving DecidableEq, Repr

/-- Origin of a service (R149). -/
inductive ServiceOrigin where
  | host (tag : Byte)
  | internal
  deriving DecidableEq, Repr

/-- The service that holds the slot; the timer is the duration it was set to, in units of 10 µs (R149). -/
structure Service where
  op : ServiceOp
  origin : ServiceOrigin
  number : Byte
  timer : Nat
  deriving DecidableEq, Repr

/-- A candidate of the start filter: the new level and the width it began with (R155). -/
structure Candidate where
  level : LineLevel
  width : RejectWidth
  deriving DecidableEq, Repr

/-- A Head Context (R142). `awaitMark` says that a frame with a length above 1027 has been discarded and no frame begins
before the next alignment mark (R187, log 25). `raised` is the model's own: the flags set so far in the step, of which
its HEAD_EVENT notice is made (R158, log 8); it is empty between steps. -/
structure HeadContext where
  state : HeadState
  linkEnable : Bool
  losDetect : Bool
  alignMode : AlignMode
  link : LinkState
  aligner : Fin 16
  markRun : Nat
  missRun : Nat
  awaitMark : Bool
  reseek : Bool
  supply : SupplyState
  slot : Option Service
  serviceNumber : Byte
  pendingWake : Option Bool
  polarity : Polarity
  width : RejectWidth
  wakeOnStart : Bool
  autoQueue : Bool
  defaultSlot : Option SlotId
  recognised : LineLevel
  candidate : Option Candidate
  enableSet : SiteSet
  flags : BitVec 10
  notices : BitVec 10
  raised : BitVec 10
  deriving DecidableEq, Repr

/-! ## Bin Ports (chapter 9) -/

/-- The stale timer (R161). -/
inductive StaleTimer where
  | stopped
  | running
  | expired
  deriving DecidableEq, Repr

/-- A Bin Port (R161). EOT and BRDY are active exactly while the frame is present. `leadTaken` says that the leading
edge of the current cycle was taken with the frame present (R163). -/
structure BinPort where
  format : Fin 4
  timeout : Byte
  frame : Option (List Byte)
  position : Nat
  stale : StaleTimer
  bdata : LineLevel
  leadTaken : Bool
  deriving DecidableEq, Repr

/-- The levels the handler drives on START and BCLK (section 9.1). -/
structure HandlerLines where
  start : LineLevel
  bclk : LineLevel
  deriving DecidableEq, Repr

/-! ## The Control Link Port (chapter 10) -/

/-- Reply statuses (section 10.3). -/
inductive Status where
  | ok
  | busy
  | badRequest
  | badValue
  | wrongState
  | inUse
  | duplicate
  | slotBusy
  | conflict
  | noAnswer
  | abandoned
  deriving DecidableEq, Repr

/-- The receive framer; IN_FRAME holds the bytes after the sync byte so far (R172). -/
inductive Framer where
  | hunt
  | synced
  | inFrame (bytes : List Byte)
  deriving DecidableEq, Repr

/-- A request as its frame carries it. -/
structure Request where
  tag : Byte
  kind : Byte
  body : List Byte
  deriving DecidableEq, Repr

/-- How far a request of the window has come: accepted, handed on to its owner, or taken by it (R175). -/
inductive Stage where
  | accepted
  | handedOn
  | taken
  deriving DecidableEq, Repr

/-- An entry of the Request Window (R175). -/
structure WindowEntry where
  request : Request
  stage : Stage
  deriving DecidableEq, Repr

/-- A reply in the reply list; `accepted` tells the reply of an accepted request from a refusal of the port
(R174, R177). -/
structure Reply where
  kind : Byte
  tag : Byte
  status : Status
  fields : List Byte
  accepted : Bool
  deriving DecidableEq, Repr

/-- The notices (R179). -/
inductive Notice where
  | runStarted (runNumber : Half) (slot : SlotId) (group : HeadSet)
  | runHeld (runNumber : Half) (returnState : RunState) (hold : HoldRecord)
  | runEnded (runNumber : Half) (abort : Option RunAbort) (exceptions : BitVec 9)
  | headEvent (head : HeadId) (flags : BitVec 10) (state : HeadState)
  | analysisDone (head : HeadId) (resolved incomplete used : Nat)
  | watchHit (head : HeadId) (site : SiteId) (bank : Byte) (row column : Half) (entries : BitVec 4)
  deriving DecidableEq, Repr

/-- A notice in the Notice Queue with its overrun mark (R178). -/
structure QueuedNotice where
  overrun : Bool
  notice : Notice
  deriving DecidableEq, Repr

/-- The two kinds of frame that wait for the transmitter (R177). -/
inductive FrameClass where
  | reply
  | notice
  deriving DecidableEq, Repr

/-- A frame for the host. -/
inductive HostFrame where
  | reply (r : Reply)
  | notice (n : QueuedNotice)
  deriving DecidableEq, Repr

/-- The frame being sent; `listed` says that it still stands at the front of its list, which a PART_RESET ends
(R177, R183). -/
structure Sending where
  frame : HostFrame
  listed : Bool
  deriving DecidableEq, Repr

/-- The part configuration held by the port (R181). -/
structure PartConfig where
  tallyTimeout : Half
  runNotices : Bool
  analysisNotices : Bool
  watchNotices : Bool
  deriving DecidableEq, Repr

/-- The Control Link Port. -/
structure ControlPort where
  framer : Framer
  window : List WindowEntry
  replies : List Reply
  notices : List QueuedNotice
  overrunPending : Bool
  flags : BitVec 4
  config : PartConfig
  sending : Option Sending
  lastSent : Option FrameClass
  deriving DecidableEq, Repr

/-! ## What leaves the part -/

/-- Messages to the pattern source (section 5.4). -/
inductive SourceMessage where
  | start (runNumber : Half) (patternId : Quad)
  | decideRepeat
  | decideExit
  | pause
  | continue
  | halt
  | linkReset
  deriving DecidableEq, Repr

/-- Frames to a head (R148). -/
inductive HeadFrame where
  | feed (record : FeedRecord)
  | runBegin (runNumber : Half) (active : SiteSet)
  | runStop
  | park (depth pass : Nat) (set : SiteSet)
  | unpark (depth : Nat) (set : SiteSet)
  | drop (depth : Nat) (set : SiteSet)
  | service (number : Byte) (op : ServiceOp)
  deriving DecidableEq, Repr

/-- Everything the part has sent, oldest first: to the source, down each Head Link, and to the host as whole frames
of bytes. The model's own record of the observable output (log 9). -/
structure Wire where
  toSource : List SourceMessage
  toHead : Vector (List HeadFrame) 4
  toHost : List (List Byte)
  deriving DecidableEq, Repr

/-! ## The whole -/

/-- The state of the part, and the commands that wait, first in, first out. -/
structure State where
  port : ControlPort
  store : PlanStore
  heads : Vector HeadContext 4
  arbiter : Arbiter
  run : RunController
  gates : GateUnit
  capture : CaptureUnit
  sites : Vector (Vector SiteContext 32) 4
  alloc : Allocator
  bins : Vector BinPort 4
  lines : Vector HandlerLines 4
  wire : Wire
  pending : List Instr
  deriving DecidableEq, Repr

/-- No command stops the part: what the spec does not take it discards, refuses with a status or makes a state
change of, so no meaning raises a fault and the type is empty (safe). -/
inductive Fault where
  deriving DecidableEq, Repr

/-- Why a command has no meaning. -/
inductive Refusal where
  /-- Raised by exec's arm of a command that has no meaning yet; no arm of this model raises it (safe). -/
  | notModelled (mnemonic : String)
  deriving DecidableEq, Repr

/-! ## Power-on values -/

/-- The part configuration after a reset (R181). -/
def PartConfig.reset : PartConfig := ⟨Config.tallyReset, true, true, true⟩

/-- The Control Link Port after power-on reset (R184). -/
def ControlPort.reset : ControlPort :=
  { framer := .hunt, window := [], replies := [], notices := [], overrunPending := false, flags := 0,
    config := .reset, sending := none, lastSent := none }

/-- The Plan Store after a reset: every slot EMPTY, class c at level c/2 (R34, R43). -/
def PlanStore.reset : PlanStore :=
  { slots := Vector.replicate 8 ⟨none, 0⟩, classMap := #v[0, 0, 1, 1, 2, 2, 3, 3] }

/-- A Head Context after a reset, with the START line at the given level (R142). -/
def HeadContext.reset (start : LineLevel) : HeadContext :=
  { state := .offline, linkEnable := false, losDetect := false, alignMode := .mark, link := .off, aligner := 0,
    markRun := 0, missRun := 0, awaitMark := false, reseek := false, supply := .off, slot := none, serviceNumber := 0,
    pendingWake := none, polarity := .falling, width := .off, wakeOnStart := false, autoQueue := false,
    defaultSlot := none, recognised := start, candidate := none, enableSet := 0, flags := 0,
    notices := BitVec.allOnes 10, raised := 0 }

/-- The Run Arbiter after a reset (R83). -/
def Arbiter.reset : Arbiter := ⟨[], true⟩

/-- The Run Controller after a reset (R91, R105, R106). -/
def RunController.reset : RunController :=
  { runNumber := 0, slot := none, group := 0, state := .none, returnState := none, recordCount := 0,
    exceptions := 0, masks := 0, hold := none, paused := false, tallied := 0, abortCause := none,
    startFailure := none, linkReady := false, resetPending := none, timer := none, buffer := [] }

/-- The Gate Unit after a reset and at every run end (R111). -/
def GateUnit.reset : GateUnit := ⟨[], 0, Vector.replicate 4 none⟩

/-- A watch entry after a reset (R20). -/
def Watch.reset : Watch := ⟨false, 0, none, 0, 0, none, false, false⟩

/-- The Capture Unit after a reset (R25). -/
def CaptureUnit.reset : CaptureUnit := ⟨[], Vector.replicate 4 .reset, []⟩

/-- A Site Context with nothing in it, in the given state (R61, R62). -/
def SiteContext.blank (state : SiteState) : SiteContext :=
  { state := state, entry := none, aborted := none, captureLost := false, expired := false, strictFail := false,
    noRepair := false, entriesHeld := 0, failCount := 0, unmappedCount := 0, parkLevel := none, context := none,
    outcome := none, repairList := none }

/-- The Repair Allocator after a reset (R81). -/
def Allocator.reset : Allocator := ⟨[], none⟩

/-- A Bin Port after power-on reset (R161). -/
def BinPort.reset : BinPort := ⟨0, 0, none, 0, .stopped, .low, false⟩

/-- The part right after power-on reset. The lines START and BCLK are low (DESIGN CHOICE, log 10). -/
def State.reset : State :=
  { port := .reset
    store := .reset
    heads := Vector.replicate 4 (.reset .low)
    arbiter := .reset
    run := .reset
    gates := .reset
    capture := .reset
    sites := Vector.replicate 4 (Vector.replicate 32 (.blank .off))
    alloc := .reset
    bins := Vector.replicate 4 .reset
    lines := Vector.replicate 4 ⟨.low, .low⟩
    wire := ⟨[], Vector.replicate 4 [], []⟩
    pending := [] }

end Sys2Proof.Machine
end

