-- ==== Sys2Proof/Machine/Bytes.lean ====
section
/-!
DEFINITION. Byte order, sets as bit vectors, and the two checks of the links (spec 00 section 5; R173; 11.4).
-/

namespace Sys2Proof.Machine

/-- A field of two bytes, most significant first (00 section 5). -/
def be16 (h : Half) : List Byte := [h.extractLsb' 8 8, h.extractLsb' 0 8]

/-- A field of four bytes, most significant first (00 section 5). -/
def be32 (q : Quad) : List Byte :=
  [q.extractLsb' 24 8, q.extractLsb' 16 8, q.extractLsb' 8 8, q.extractLsb' 0 8]

/-- A count in one byte. -/
def byteOf (n : Nat) : Byte := BitVec.ofNat 8 n

/-- A count in two bytes, most significant first. -/
def be16OfNat (n : Nat) : List Byte := be16 (BitVec.ofNat 16 n)

/-- Two bytes read most significant first. -/
def half (hi lo : Byte) : Half := hi ++ lo

/-- An on/off or set/clear field (R185). -/
def boolByte (b : Bool) : Byte := if b then 1#8 else 0#8

/-- The bit vector whose bit `i` is `f i`. -/
def setOf : (n : Nat) → (Nat → Bool) → BitVec n
  | 0, _ => 0#0
  | n + 1, f => BitVec.cons (f n) (setOf n f)

/-- The set of the indices below `n` for which `f` holds. -/
def setOfFin (n : Nat) (f : Fin n → Bool) : BitVec n :=
  setOf n (fun k => if h : k < n then f ⟨k, h⟩ else false)

/-- One bit of the CRC with polynomial x^16+x^12+x^5+1, most significant bit first (R173). -/
def crcBit (crc : Half) : Half := if crc.msb then (crc <<< 1) ^^^ 0x1021#16 else crc <<< 1

/-- One byte of the CRC, most significant bit first (R173). -/
def crcByte (crc : Half) (b : Byte) : Half :=
  crcBit (crcBit (crcBit (crcBit (crcBit (crcBit (crcBit (crcBit (crc ^^^ (b ++ 0#8)))))))))

/-- The CRC of the Control Link, initial value FFFFh (R173). -/
def crc16 (bytes : List Byte) : Half := bytes.foldl crcByte 0xFFFF#16

/-- The exclusive OR of the bytes: the check byte of Head Link frames and of the bin frame (11.4, R164). -/
def xorBytes (bytes : List Byte) : Byte := bytes.foldl (fun acc b => acc ^^^ b) 0#8

end Sys2Proof.Machine
end

