-- ==== Sys2Proof/Machine/Flags.lean ====
section
/-!
DEFINITION. The flag words of the part: head event flags, part event flags, exception masks and Exception Word
(R158, R180, R128, R131), in the bit orders of R185's table.
-/

namespace Sys2Proof.Machine

/-! ## Head event flags (R158) -/

def HeadFlag.startSeen : BitVec 10 := 0x001#10
def HeadFlag.startEarly : BitVec 10 := 0x002#10
def HeadFlag.linkChange : BitVec 10 := 0x004#10
def HeadFlag.supplyTrip : BitVec 10 := 0x008#10
def HeadFlag.wakeFail : BitVec 10 := 0x010#10
def HeadFlag.dropped : BitVec 10 := 0x020#10
def HeadFlag.runDeclined : BitVec 10 := 0x040#10
def HeadFlag.binDelivered : BitVec 10 := 0x080#10
def HeadFlag.binStale : BitVec 10 := 0x100#10
def HeadFlag.binAbandoned : BitVec 10 := 0x200#10

/-- A cause sets its flag; the flag stays set until EVENTS_READ clears it (R158). -/
def HeadContext.raiseFlag (flag : BitVec 10) (h : HeadContext) : HeadContext :=
  { h with flags := h.flags ||| flag, raised := h.raised ||| flag }

/-! ## Part event flags (R180) -/

def PartFlag.frameError : BitVec 4 := 1#4
def PartFlag.tagClash : BitVec 4 := 2#4
def PartFlag.noticeOverrun : BitVec 4 := 4#4
def PartFlag.feedFault : BitVec 4 := 8#4

/-- A cause sets its part flag (R180). -/
def ControlPort.setFlag (flag : BitVec 4) (p : ControlPort) : ControlPort := { p with flags := p.flags ||| flag }

/-! ## Run exceptions and faults (R128, R129, R131) -/

/-- Bit number of a run exception in the mask set and in the Exception Word (11.1). -/
def Cause.bit : Cause → Nat
  | .gateOverflow => 0
  | .gateUnderflow => 1
  | .tableFull => 2
  | .quota => 3
  | .unmapped => 4
  | .tallyLate => 5
  | .watch => 6

/-- The run exception of a cause of a fail word (R19). -/
def FailCause.cause : FailCause → Cause
  | .watch => .watch
  | .unmapped => .unmapped
  | .quota => .quota
  | .tableFull => .tableFull

/-- What the raise of a fail word hands to the Run Controller (R128). -/
def HandedRaise.raise (r : HandedRaise) : Raise :=
  ⟨r.cause.cause, some r.head, some r.site, r.region, some r.row, some r.column, none⟩

/-- Bit number of a fault in the Exception Word (11.1). -/
def RunFault.bit : RunFault → Nat
  | .feedFormat => 7
  | .feedOverrun => 8

/-- A raise sets its sticky flag (R131). -/
def RunController.setException (bit : Nat) (r : RunController) : RunController :=
  { r with exceptions := r.exceptions ||| (1#9 <<< bit) }

/-- A mask that is on makes its exception masked (R130). -/
def RunController.masked (c : Cause) (r : RunController) : Bool := r.masks.getLsbD c.bit

end Sys2Proof.Machine
end

