-- ==== Sys2Proof/Machine/Operands.lean ====
section
/-!
DEFINITION. The encodings of fields: reading request fields, with what is out of range (R185), and writing the codes
of Table 11-1.
-/

namespace Sys2Proof.Machine

/-! ## Reading -/

/-- A head field; none above 3 (R185). -/
def headOf (b : Byte) : Option HeadId := finOf 4 b.toNat
/-- A site field; none above 31 (R185). -/
def siteOf (b : Byte) : Option SiteId := finOf 32 b.toNat
/-- A plan slot field; none above 7 (R185). -/
def slotOf (b : Byte) : Option SlotId := finOf 8 b.toNat
/-- A watch index field; none above 3 (R185). -/
def indexOf (b : Byte) : Option (Fin 4) := finOf 4 b.toNat

/-- An on/off field: 00h off, 01h on, any other value out of range (R185). -/
def onOff (b : Byte) : Option Bool :=
  if b = 0#8 then some false else if b = 1#8 then some true else none

/-- An align mode field (Table 11-1). -/
def alignModeOf (b : Byte) : Option AlignMode :=
  if b = 0#8 then some .mark else if b = 1#8 then some .manual else none

/-- A polarity field (Table 11-1). -/
def polarityOf (b : Byte) : Option Polarity :=
  if b = 0#8 then some .falling else if b = 1#8 then some .rising else none

/-- A reject width field (Table 11-1). -/
def widthOf (b : Byte) : Option RejectWidth :=
  if b = 0#8 then some .off else if b = 1#8 then some .us250
  else if b = 2#8 then some .ms1 else if b = 3#8 then some .ms4 else none

/-- A default plan slot field: FFh is none (R185). The outer option is the range check. -/
def defaultSlotOf (b : Byte) : Option (Option SlotId) :=
  if b = 0xFF#8 then some none else (slotOf b).map some

/-- A watch site field: FFh is ANY (R185). -/
def watchSiteOf (b : Byte) : Option (Option SiteId) :=
  if b = 0xFF#8 then some none else (siteOf b).map some

/-- A watch column field: FFFFh is ANY, 4095 the greatest column (R185, R21). -/
def watchColumnOf (c : Half) : Option (Option Half) :=
  if c = 0xFFFF#16 then some none else if c.toNat ≤ 4095 then some (some c) else none

/-- A region policy field (Table 11-1). -/
def policyOf (b : Byte) : Option Policy :=
  if b = 0#8 then some .analyse else if b = 1#8 then some .strict else if b = 2#8 then some .ignore else none

/-- An expiry policy field (Table 11-1). -/
def expiryOf (b : Byte) : Option Expiry :=
  if b = 0#8 then some .drop else if b = 1#8 then some .continue else none

/-- An exception mask set: bit 7 names an exception beyond the seven (11.1). -/
def maskSetOf (b : Byte) : Option (BitVec 7) := if b.msb then none else some (b.extractLsb' 0 7)

/-- A head set: bits 4 to 7 name heads above 3 (R185). -/
def headSetOf (b : Byte) : Option HeadSet :=
  if b.extractLsb' 4 4 = 0#4 then some (b.extractLsb' 0 4) else none

/-- A bin code, 0 to 15. -/
def codeOf (b : Byte) : Option (BitVec 4) :=
  if b.extractLsb' 4 4 = 0#4 then some (b.extractLsb' 0 4) else none

/-- A region descriptor is in range (R39's table, R30). -/
def regionOf (r : RegionBody) : Option Region :=
  match policyOf r.policy with
  | none => none
  | some p =>
    if r.bank.toNat ≤ 15 ∧ r.rowBase.toNat ≤ r.rowLimit.toNat ∧ r.columnBase.toNat ≤ r.columnLimit.toNat ∧
        r.columnLimit.toNat ≤ 4095 ∧ r.spareRows.toNat ≤ 15 ∧ r.spareColumns.toNat ≤ 15 then
      some { bank := r.bank, rowBase := r.rowBase, rowLimit := r.rowLimit, columnBase := r.columnBase,
             columnLimit := r.columnLimit, spareRows := r.spareRows.toNat, spareColumns := r.spareColumns.toNat,
             policy := p }
    else none

/-- All the descriptors of a body, when each is in range. -/
def regionsOf : List RegionBody → Option (List Region)
  | [] => some []
  | r :: rest =>
    match regionOf r, regionsOf rest with
    | some x, some xs => some (x :: xs)
    | _, _ => none

/-- The Outcome Map of a body, when no code is above 15. -/
def outcomeMapOf (v : Vector Byte 8) : Option (Vector (BitVec 4) 8) :=
  if ∀ i : Fin 8, (codeOf v[i]).isSome then some (Vector.ofFn fun i => v[i].extractLsb' 0 4) else none

/-- The fixed fields of a plan body that are in range, with the regions (R39's table). -/
def planOf (b : PlanBody) : Option Plan :=
  match finOf 8 b.planClass.toNat, headSetOf b.joinSet, expiryOf b.expiry, maskSetOf b.masks, onOff b.autoAnalyse,
        outcomeMapOf b.outcomeMap, codeOf b.absentCode, regionsOf b.regions with
  | some c, some j, some e, some m, some a, some o, some x, some rs =>
    if 1 ≤ rs.length ∧ rs.length ≤ 8 ∧ 1 ≤ b.quota.toNat ∧ b.quota.toNat ≤ 4096 ∧ b.autoBudget ≠ 0#16 then
      some { patternId := b.patternId, planClass := c, joinSet := j, quota := b.quota.toNat, expiry := e, masks := m,
             autoAnalyse := a, autoBudget := b.autoBudget, outcomeMap := o, absentCode := x, regions := rs }
    else none
  | _, _, _, _, _, _, _, _ => none

/-- The Class Map of a CONFIGURE body, when no level is above 3 (R181). -/
def classMapOf (v : Vector Byte 8) : Option (Vector (Fin 4) 8) :=
  if h : ∀ i : Fin 8, v[i].toNat < 4 then some (Vector.ofFn fun i => ⟨v[i].toNat, h i⟩) else none

/-- The watch entry of a WATCH_SET body with its index, when every field is in range; the hit flag is clear (R21). -/
def watchOf (b : WatchBody) : Option (Fin 4 × Watch) :=
  match indexOf b.index, onOff b.valid, headOf b.head, watchSiteOf b.site, watchColumnOf b.column, onOff b.hold with
  | some i, some v, some h, some s, some c, some o =>
    if b.bank.toNat ≤ 15 then some (i, ⟨v, h, s, b.bank, b.row, c, o, false⟩) else none
  | _, _, _, _, _, _ => none

/-! ## Messages of the source and frames of the heads (11.4, 11.5) -/

/-- A well-formed message from the source (section 5.4). -/
inductive SourceInput where
  | accept (runNumber : Half)
  | decline (reason : Byte)
  | record (r : FeedRecord)
  | halted
  | resetDone
  deriving DecidableEq, Repr

/-- A BLOCK is well-formed with a payload of 1 to 1024 bytes (R93, R188). -/
def blockFits (payload : List Byte) : Bool := decide (1 ≤ payload.length) && decide (payload.length ≤ 1024)

/-- The message that a kind and its fields make; none when it is ill-formed (R188, 11.5). -/
def sourceFields (kind : Byte) (fields : List Byte) : Option SourceInput :=
  if kind = 0x13#8 then if blockFits fields then some (.record (.block fields)) else none
  else
    match fields with
    | [] =>
      if kind = 0x15#8 then some (.record .gateClose) else if kind = 0x16#8 then some (.record .endRecord)
      else if kind = 0x17#8 then some .halted else if kind = 0x18#8 then some .resetDone else none
    | [a] => if kind = 0x12#8 then some (.decline a) else none
    | [a, b] =>
      if kind = 0x11#8 then some (.accept (half a b))
      else if kind = 0x14#8 ∧ half a b ≠ 0#16 then some (.record (.gateOpen (half a b))) else none
    | _ => none

/-- The bytes of a message from the source: kind, length, fields; none when they are ill-formed (R188). -/
def sourceInput (bytes : List Byte) : Option SourceInput :=
  match bytes with
  | kind :: hi :: lo :: fields => if fields.length = (half hi lo).toNat then sourceFields kind fields else none
  | _ => none

/-- A well-formed frame from a head (11.4). -/
inductive HeadInput where
  | fail (site bank : Byte) (row column : Half)
  | passTally (depth pass : Half) (matched : SiteSet)
  | endTally
  | serviceReply (number : Byte) (result : ServiceResult) (value : Half)
  | supplyTrip
  deriving DecidableEq, Repr

/-- A result code of SERVICE_REPLY (11.4). -/
def serviceResultOf (b : Byte) : Option ServiceResult :=
  if b = 0#8 then some .good else if b = 1#8 then some .trip else if b = 2#8 then some .refused else none

/-- The frame that a kind and a body make; none when ill-formed (R187, 11.4). -/
def headFields (kind : Byte) (body : List Byte) : Option HeadInput :=
  match body with
  | [] => if kind = 0x13#8 then some .endTally else if kind = 0x15#8 then some .supplyTrip else none
  | [n, r, a, b] =>
    if kind = 0x14#8 then (serviceResultOf r).map fun x => .serviceReply n x (half a b) else none
  | [i, k, a, b, c, d] => if kind = 0x11#8 then some (.fail i k (half a b) (half c d)) else none
  | [a, b, c, d, e, f, g, h] =>
    if kind = 0x12#8 then some (.passTally (half a b) (half c d) (half e f ++ half g h)) else none
  | _ => none

/-- The length field of a frame from a head is above 1027: the frame is discarded when its length has been read, and the
next frame begins after the next alignment mark (R187). -/
def headOverlong (bytes : List Byte) : Bool :=
  match bytes with
  | _ :: hi :: lo :: _ => decide (1027 < (half hi lo).toNat)
  | _ => false

/-- The bytes of a frame from a head: kind, length, body, check byte; none when ill-formed (R187). -/
def headInput (bytes : List Byte) : Option HeadInput :=
  match bytes with
  | kind :: hi :: lo :: rest =>
    let body := rest.dropLast
    if rest.length = (half hi lo).toNat + 1 ∧ rest.getLast? = some (xorBytes (kind :: hi :: lo :: body)) then
      headFields kind body
    else none
  | _ => none

/-! ## Writing (Table 11-1) -/

def Status.code : Status → Byte
  | .ok => 0x00#8
  | .busy => 0x01#8
  | .badRequest => 0x02#8
  | .badValue => 0x03#8
  | .wrongState => 0x04#8
  | .inUse => 0x05#8
  | .duplicate => 0x06#8
  | .slotBusy => 0x07#8
  | .conflict => 0x08#8
  | .noAnswer => 0x09#8
  | .abandoned => 0x0A#8

def SiteState.code : SiteState → Byte
  | .off => 0#8
  | .ready => 1#8
  | .testing => 2#8
  | .parked => 3#8
  | .dropped => 4#8
  | .ended => 5#8
  | .incomplete => 6#8
  | .resolved => 7#8

/-- The Outcome Map index of an outcome (R164). -/
def SiteOutcome.index : SiteOutcome → Fin 8
  | .pass => 0
  | .repaired => 1
  | .noRepair => 2
  | .strictFail => 3
  | .captureLost => 4
  | .matchExpired => 5
  | .aborted => 6
  | .unresolved => 7

def AbortCause.code : AbortCause → Byte
  | .link => 1#8
  | .supply => 2#8
  | .tally => 3#8
  | .host => 4#8
  | .reset => 5#8
  | .feed => 6#8

def HeadState.code : HeadState → Byte
  | .offline => 0#8
  | .standby => 1#8
  | .waking => 2#8
  | .idle => 3#8
  | .queued => 4#8
  | .inRun => 5#8
  | .analysis => 6#8
  | .binWait => 7#8

def RunState.code : RunState → Byte
  | .none => 0#8
  | .starting => 1#8
  | .streaming => 2#8
  | .deciding => 3#8
  | .draining => 4#8
  | .held => 5#8
  | .halting => 6#8

def RunAbort.code : RunAbort → Byte
  | .host => 1#8
  | .feed => 2#8
  | .groupEmpty => 3#8

def LinkState.code : LinkState → Byte
  | .off => 0#8
  | .seeking => 1#8
  | .locked => 2#8
  | .lost => 3#8

def SupplyState.code : SupplyState → Byte
  | .off => 0#8
  | .ramping => 1#8
  | .on => 2#8
  | .falling => 3#8
  | .fault => 4#8

def Policy.code : Policy → Byte
  | .analyse => 0#8
  | .strict => 1#8
  | .ignore => 2#8

def Expiry.code : Expiry → Byte
  | .drop => 0#8
  | .continue => 1#8

def AlignMode.code : AlignMode → Byte
  | .mark => 0#8
  | .manual => 1#8

def Polarity.code : Polarity → Byte
  | .falling => 0#8
  | .rising => 1#8

def RejectWidth.code : RejectWidth → Byte
  | .off => 0#8
  | .us250 => 1#8
  | .ms1 => 2#8
  | .ms4 => 3#8

def LineLevel.code : LineLevel → Byte
  | .low => 0#8
  | .high => 1#8

def StaleTimer.code : StaleTimer → Byte
  | .stopped => 0#8
  | .running => 1#8
  | .expired => 2#8

def Phase.code : Phase → Byte
  | .closure => 1#8
  | .search => 2#8

/-- The code of an absent field is zero bytes (R185). -/
def optCode {α : Type} (f : α → Byte) (o : Option α) : Byte := (o.map f).getD 0#8

/-- The operation codes of SERVICE (11.4). -/
def ServiceOp.code : ServiceOp → Byte
  | .supplyOn => 1#8
  | .supplyOff => 2#8
  | .headRead _ => 3#8
  | .headWrite _ _ => 4#8
  | .headSleep => 5#8
  | .headWake _ => 6#8

/-- A repair line: region, line kind, index (11.3). -/
def RepairLine.bytes (l : RepairLine) : List Byte :=
  byteOf l.region ::
    match l.line with
    | .row r => 0#8 :: be16 r
    | .col c => 1#8 :: be16 c

/-- A region descriptor (11.3). -/
def Region.bytes (r : Region) : List Byte :=
  [r.bank] ++ be16 r.rowBase ++ be16 r.rowLimit ++ be16 r.columnBase ++ be16 r.columnLimit ++
    [byteOf r.spareRows, byteOf r.spareColumns, r.policy.code]

/-- A plan body from offset 1 (11.3, R41). -/
def Plan.bytes (p : Plan) : List Byte :=
  be32 p.patternId ++ [byteOf p.planClass.val, p.joinSet.setWidth 8] ++ be16OfNat p.quota ++
    [p.expiry.code, p.masks.setWidth 8, boolByte p.autoAnalyse] ++ be16 p.autoBudget ++
    p.outcomeMap.toList.map (fun c => c.setWidth 8) ++ [p.absentCode.setWidth 8] ++
    p.regions.flatMap Region.bytes

/-- The Hold Record, 17 bytes; absent fields are zero bytes (11.3, R185). -/
def HoldRecord.bytes (r : HoldRecord) : List Byte :=
  [byteOf r.raised.cause.bit, boolByte r.more] ++ be32 r.recordCount ++ [byteOf r.gateDepth] ++
    be16OfNat r.phantomDepth ++
    [optCode (fun h => byteOf h.val) r.raised.head, optCode (fun s => byteOf s.val) r.raised.site,
      optCode byteOf r.raised.region] ++
    be16 (r.raised.row.getD 0) ++ be16 (r.raised.column.getD 0) ++
    [optCode (fun m => m.setWidth 8) r.raised.missing]

/-- A feed record exactly as received: kind, length and fields (11.5, R188). -/
def FeedRecord.bytes : FeedRecord → List Byte
  | .block payload => [0x13#8] ++ be16OfNat payload.length ++ payload
  | .gateOpen limit => [0x14#8] ++ be16OfNat 2 ++ be16 limit
  | .gateClose => [0x15#8, 0#8, 0#8]
  | .endRecord => [0x16#8, 0#8, 0#8]

/-- A message to the pattern source (11.5). -/
def SourceMessage.bytes : SourceMessage → List Byte
  | .start run pattern => [0x01#8] ++ be16OfNat 6 ++ be16 run ++ be32 pattern
  | .decideRepeat => [0x02#8, 0#8, 1#8, 0#8]
  | .decideExit => [0x02#8, 0#8, 1#8, 1#8]
  | .pause => [0x03#8, 0#8, 0#8]
  | .continue => [0x04#8, 0#8, 0#8]
  | .halt => [0x05#8, 0#8, 0#8]
  | .linkReset => [0x06#8, 0#8, 0#8]

/-- A Head Link frame: kind, length of the body, body and check byte (11.4, R187). -/
def headLinkFrame (kind : Byte) (body : List Byte) : List Byte :=
  let counted := [kind] ++ be16OfNat body.length ++ body
  counted ++ [xorBytes counted]

/-- A frame to a head as bytes (11.4). -/
def HeadFrame.bytes : HeadFrame → List Byte
  | .feed record => headLinkFrame 0x01#8 record.bytes
  | .runBegin run active => headLinkFrame 0x02#8 (be16 run ++ be32 active)
  | .runStop => headLinkFrame 0x03#8 []
  | .park depth pass set => headLinkFrame 0x04#8 ([byteOf depth] ++ be16OfNat pass ++ be32 set)
  | .unpark depth set => headLinkFrame 0x05#8 (be16OfNat depth ++ be32 set)
  | .drop depth set => headLinkFrame 0x06#8 ([byteOf depth] ++ be32 set)
  | .service number op =>
    headLinkFrame 0x07#8 ([number, op.code] ++
      match op with
      | .headRead register => [register, 0#8, 0#8]
      | .headWrite register value => [register] ++ be16 value
      | _ => [0#8, 0#8, 0#8])

/-- The kind of a notice (11.3). -/
def Notice.kind : Notice → Byte
  | .runStarted .. => 0x80#8
  | .runHeld .. => 0x81#8
  | .runEnded .. => 0x82#8
  | .headEvent .. => 0x83#8
  | .analysisDone .. => 0x84#8
  | .watchHit .. => 0x85#8

/-- The body of a notice after the overrun mark (11.3). -/
def Notice.bytes : Notice → List Byte
  | .runStarted run slot group => be16 run ++ [byteOf slot.val, group.setWidth 8]
  | .runHeld run ret hold => be16 run ++ [ret.code] ++ hold.bytes
  | .runEnded run abort word =>
    be16 run ++ [boolByte abort.isSome, optCode RunAbort.code abort] ++ be16 (word.setWidth 16)
  | .headEvent head flags state => [byteOf head.val] ++ be16 (flags.setWidth 16) ++ [state.code]
  | .analysisDone head resolved incomplete used =>
    [byteOf head.val, byteOf resolved, byteOf incomplete] ++ be16OfNat used
  | .watchHit head site bank row column entries =>
    [byteOf head.val, byteOf site.val, bank] ++ be16 row ++ be16 column ++ [entries.setWidth 8]

/-- The envelope of the Control Link: sync, length, kind, tag, body, CRC (section 11.2, R173). -/
def controlFrame (kind tag : Byte) (body : List Byte) : List Byte :=
  let covered := be16OfNat (body.length + 2) ++ [kind, tag] ++ body
  [Config.syncByte] ++ covered ++ be16 (crc16 covered)

/-- A frame for the host as bytes: a reply begins with its status, a notice with its overrun mark and carries tag 0
(11.2, R179). -/
def HostFrame.bytes : HostFrame → List Byte
  | .reply r => controlFrame r.kind r.tag (r.status.code :: r.fields)
  | .notice n => controlFrame n.notice.kind 0#8 (boolByte n.overrun :: n.notice.bytes)

end Sys2Proof.Machine
end

