-- ==== Sys2Proof/Machine/Table.lean ====
section
/-!
DEFINITION. The Fail Table as a store: its canonical form, taking the FREE entry of lowest index, freeing, and the
Capture Unit's searches (R1 to R3, R10 to R14).
-/

namespace Sys2Proof.Machine

/-- Every listed index is above `k` and the indices rise strictly. -/
def FailTable.risingFrom : Nat → FailTable → Bool
  | _, [] => true
  | k, (i, _) :: rest => decide (k ≤ i) && FailTable.risingFrom (i + 1) rest

/-- The canonical form: indices strictly rising and below 4096. A FREE entry is not listed (R1). -/
def FailTable.wf (t : FailTable) : Bool :=
  FailTable.risingFrom 0 t && t.all (fun p => decide (p.1 < Config.tableSize))

/-- The entry at an index; absent when FREE. -/
def FailTable.read (t : FailTable) (i : Nat) : Option Entry := (t.find? (fun p => p.1 == i)).map Prod.snd

/-- The lowest index from `k` on that is not listed. -/
def FailTable.lowestFrom : Nat → FailTable → Nat
  | k, [] => k
  | k, (i, _) :: rest => if i = k then FailTable.lowestFrom (k + 1) rest else k

/-- The FREE entry of lowest index, when there is one (R3). -/
def FailTable.lowestFree (t : FailTable) : Option Nat :=
  let k := FailTable.lowestFrom 0 t
  if k < Config.tableSize then some k else none

/-- The number of FREE entries (R3). -/
def FailTable.freeCount (t : FailTable) : Nat := Config.tableSize - t.length

/-- Write an entry at an index, in its place. -/
def FailTable.write (i : Nat) (e : Entry) : FailTable → FailTable
  | [] => [(i, e)]
  | (j, f) :: rest =>
    if i < j then (i, e) :: (j, f) :: rest
    else if i = j then (i, e) :: rest
    else (j, f) :: FailTable.write i e rest

/-- Make FREE every entry for which `p` holds; a freed entry keeps nothing (R3). -/
def FailTable.free (p : Entry → Bool) (t : FailTable) : FailTable := t.filter (fun x => !p x.2)

/-- Change the hits of the entry at an index. -/
def FailTable.setHits (i hits : Nat) (t : FailTable) : FailTable :=
  t.map (fun x => if x.1 = i then (x.1, { x.2 with hits := hits }) else x)

/-- An entry of the site. -/
def Entry.ofSite (h : HeadId) (s : SiteId) (e : Entry) : Bool := e.head == h && e.site == s

/-- An entry of the site and region. -/
def Entry.ofRegion (h : HeadId) (s : SiteId) (r : Nat) (e : Entry) : Bool := e.ofSite h s && e.region == r

/-- A CELL in the row. -/
def EntryKey.cellInRow (row : Half) : EntryKey → Bool
  | .cell r _ => r == row
  | _ => false

/-- A CELL in the column. -/
def EntryKey.cellInColumn (column : Half) : EntryKey → Bool
  | .cell _ c => c == column
  | _ => false

/-- The entry of the site and region with the key, with its index (the key is unique by the first law, R2). -/
def FailTable.lookup (h : HeadId) (s : SiteId) (r : Nat) (key : EntryKey) (t : FailTable) : Option (Nat × Entry) :=
  t.find? (fun x => x.2.ofRegion h s r && x.2.key == key)

/-- A counter incremented up to its maximum, where it stays (00 section 5). -/
def satInc (limit n : Nat) : Nat := if n < limit then n + 1 else limit

/-- Entry kind codes (Table 11-1). -/
def EntryKey.code : EntryKey → Byte
  | .cell _ _ => 1#8
  | .rowLine _ => 2#8
  | .colLine _ => 3#8

/-- The row of an entry; a COL_LINE has none (R1). -/
def EntryKey.row : EntryKey → Option Half
  | .cell r _ => some r
  | .rowLine r => some r
  | .colLine _ => none

/-- The column of an entry; a ROW_LINE has none (R1). -/
def EntryKey.column : EntryKey → Option Half
  | .cell _ c => some c
  | .rowLine _ => none
  | .colLine c => some c

/-- A returned entry of TABLE_READ, 10 bytes (11.3). -/
def entryBytes (x : Nat × Entry) : List Byte :=
  be16OfNat x.1 ++ [x.2.key.code, byteOf x.2.region] ++ be16 (x.2.key.row.getD 0) ++
    be16 (x.2.key.column.getD 0) ++ be16OfNat x.2.hits

end Sys2Proof.Machine
end

