-- ==== Sys2Proof/Machine/Ops.lean ====
section
/-!
DEFINITION. The named operations every meaning is written with: access to one block, head, site or port; the reply
list, the Notice Queue and the transmitter (R174 to R179); what is sent to the source and down the Head Links (R148).
A block has no exception entry: raising a run exception is in Machine/RunOps.lean (R132).
-/

namespace Sys2Proof.Machine

namespace State

/-! ## Blocks -/

def onPort (f : ControlPort → ControlPort) (s : State) : State := { s with port := f s.port }
def onStore (f : PlanStore → PlanStore) (s : State) : State := { s with store := f s.store }
def onArbiter (f : Arbiter → Arbiter) (s : State) : State := { s with arbiter := f s.arbiter }
def onRun (f : RunController → RunController) (s : State) : State := { s with run := f s.run }
def onGates (f : GateUnit → GateUnit) (s : State) : State := { s with gates := f s.gates }
def onCapture (f : CaptureUnit → CaptureUnit) (s : State) : State := { s with capture := f s.capture }
def onAlloc (f : Allocator → Allocator) (s : State) : State := { s with alloc := f s.alloc }
def onWire (f : Wire → Wire) (s : State) : State := { s with wire := f s.wire }

/-- Change one Head Context. -/
def onHead (h : HeadId) (f : HeadContext → HeadContext) (s : State) : State := { s with heads := upd s.heads h f }
/-- Change one Bin Port. -/
def onBin (h : HeadId) (f : BinPort → BinPort) (s : State) : State := { s with bins := upd s.bins h f }
/-- Change the lines of one Handler Port. -/
def onLines (h : HeadId) (f : HandlerLines → HandlerLines) (s : State) : State :=
  { s with lines := upd s.lines h f }
/-- Change every site of one head, each by its number. -/
def mapSites (h : HeadId) (f : SiteId → SiteContext → SiteContext) (s : State) : State :=
  { s with sites := upd s.sites h (fun v => Vector.ofFn fun i => f i v[i]) }
/-- Change one Site Context. -/
def onSite (h : HeadId) (i : SiteId) (f : SiteContext → SiteContext) (s : State) : State :=
  { s with sites := upd s.sites h (fun v => upd v i f) }

/-- The Head Context of head `h`. -/
def head (s : State) (h : HeadId) : HeadContext := s.heads[h]
/-- The Site Context of head `h` site `i`. -/
def site (s : State) (h : HeadId) (i : SiteId) : SiteContext := s.sites[h][i]
/-- The Bin Port of head `h`. -/
def bin (s : State) (h : HeadId) : BinPort := s.bins[h]
/-- The plan in a slot, when it is LOADED. -/
def planAt (s : State) (slot : SlotId) : Option Plan := s.store.slots[slot].record
/-- The plan of the current run. -/
def runPlan (s : State) : Option Plan := s.run.slot.bind s.planAt
/-- The plan a site runs under. -/
def sitePlan (s : State) (c : SiteContext) : Option Plan := c.entry.bind fun e => s.planAt e.slot

/-- The set of the head's sites for which `p` holds. -/
def siteSet (s : State) (h : HeadId) (p : SiteContext → Bool) : SiteSet := setOfFin 32 fun i => p (s.site h i)
/-- The set of the head's TESTING sites. -/
def testing (s : State) (h : HeadId) : SiteSet := s.siteSet h fun c => c.state == .testing

/-- Set the head state. -/
def setHeadState (h : HeadId) (x : HeadState) (s : State) : State := s.onHead h fun c => { c with state := x }
/-- Set a head event flag; its notice is made at the end of the step (R158). -/
def raiseFlag (h : HeadId) (flag : BitVec 10) (s : State) : State := s.onHead h (HeadContext.raiseFlag flag)
/-- Set a part event flag (R180). -/
def setPartFlag (flag : BitVec 4) (s : State) : State := s.onPort (ControlPort.setFlag flag)

/-- Do `f` for each head of a set, in ascending head number. -/
def forHeads (set : HeadSet) (f : HeadId → State → State) (s : State) : State :=
  allHeads.foldl (fun t h => if set.getLsbD h.val then f h t else t) s

/-! ## What leaves on the Feed Link and the Head Links -/

/-- Send a message to the pattern source (section 5.4). -/
def sendSource (m : SourceMessage) (s : State) : State := s.onWire fun w => { w with toSource := w.toSource ++ [m] }

/-- Give a frame to a Head Manager: it leaves while the link is LOCKED and is discarded otherwise (R148). -/
def sendHead (h : HeadId) (f : HeadFrame) (s : State) : State :=
  if (s.head h).link = .locked then s.onWire fun w => { w with toHead := upd w.toHead h (· ++ [f]) } else s

/-- A frame of the head is decoded: its link is LOCKED (R148), and no alignment mark is awaited (R187). -/
def decodes (h : HeadId) (s : State) : Bool := (s.head h).link == .locked && !(s.head h).awaitMark

/-! ## Replies and notices (R174 to R179) -/

/-- The reply of an accepted request joins the reply list (R175). -/
def answer (kind tag : Byte) (st : Status) (fields : List Byte) (s : State) : State :=
  s.onPort fun p => { p with replies := p.replies ++ [⟨kind, tag, st, fields, true⟩] }

/-- Answer OK with the fields of the request's rule (section 10.3). -/
def answerOk (q : Request) (fields : List Byte) (s : State) : State := s.answer q.kind q.tag .ok fields

/-- Refuse with a status alone (section 10.3). -/
def refuse (q : Request) (st : Status) (s : State) : State := s.answer q.kind q.tag st []

/-- Queue a notice; with 32 held it is lost, NOTICE_OVERRUN is set and the overrun mark is pending (R178). -/
def queueNotice (n : Notice) (s : State) : State :=
  s.onPort fun p =>
    if p.notices.length < Config.noticeLimit then
      { p with notices := p.notices ++ [⟨p.overrunPending, n⟩], overrunPending := false }
    else { p.setFlag PartFlag.noticeOverrun with overrunPending := true }

/-- A run notice, when run notices are enabled (R179). -/
def runNotice (n : Notice) (s : State) : State := if s.port.config.runNotices then s.queueNotice n else s

end State

/-- The frame that a free transmitter begins to send: of the kind it did not send last when both wait, the oldest
of the one kind that waits otherwise (R177). Before any frame has been sent the choice is the free value. -/
def ControlPort.nextFrame (p : ControlPort) : Option HostFrame :=
  match p.replies, p.notices with
  | [], [] => none
  | r :: _, [] => some (.reply r)
  | [], n :: _ => some (.notice n)
  | r :: _, n :: _ =>
    match p.lastSent with
    | some .reply => some (.notice n)
    | some .notice => some (.reply r)
    | none => if Config.firstFrameIsReply then some (.reply r) else some (.notice n)

/-- A free transmitter with a frame waiting begins to send it; a frame that has begun is sent to its end (R177). -/
def ControlPort.transmit (p : ControlPort) : ControlPort :=
  match p.sending with
  | some _ => p
  | none => { p with sending := p.nextFrame.map fun f => ⟨f, true⟩ }

/-- The kind of a frame for the host. -/
def HostFrame.cls : HostFrame → FrameClass
  | .reply _ => .reply
  | .notice _ => .notice

namespace State

/-- The transmitter goes on with what the step has left waiting (R177). -/
def emit (s : State) : State := s.onPort ControlPort.transmit

/-- The HEAD_EVENT notice of one head: the flags that the event set and whose enable is on, with the head state
after the event; none when all their enables are off (R158). -/
def flushHead (h : HeadId) (s : State) : State :=
  let set := (s.head h).raised &&& (s.head h).notices
  let t := s.onHead h fun c => { c with raised := 0 }
  if set = 0 then t else t.queueNotice (.headEvent h set (s.head h).state)

/-- The HEAD_EVENT notices of the step, in ascending head number (R158, log 8). -/
def flushEvents (s : State) : State := allHeads.foldl (fun t h => t.flushHead h) s

/-- The end of a step that may set head event flags. -/
def report (s : State) : State := s.flushEvents.emit

end State

end Sys2Proof.Machine
end

