-- ==== Sys2Proof/Machine/Requests.lean ====
section
/-!
DEFINITION. Requests of the host: their kinds and bodies (R186), the receive framer (R172, R173), the entry checks
(R174), the Request Window (R175), and how a request command reaches its owner (log 4).
-/

namespace Sys2Proof.Machine

/-! ## Kinds (R186) -/

def Kind.identify : Byte := 0x01#8
def Kind.status : Byte := 0x02#8
def Kind.configure : Byte := 0x03#8
def Kind.eventsRead : Byte := 0x04#8
def Kind.partReset : Byte := 0x05#8
def Kind.planLoad : Byte := 0x10#8
def Kind.planRead : Byte := 0x11#8
def Kind.planFree : Byte := 0x12#8
def Kind.siteEnable : Byte := 0x20#8
def Kind.headLink : Byte := 0x21#8
def Kind.linkShift : Byte := 0x22#8
def Kind.supplySet : Byte := 0x23#8
def Kind.headAccess : Byte := 0x24#8
def Kind.headStandby : Byte := 0x25#8
def Kind.headWake : Byte := 0x26#8
def Kind.startConfig : Byte := 0x27#8
def Kind.headEvents : Byte := 0x28#8
def Kind.headStatus : Byte := 0x29#8
def Kind.headReset : Byte := 0x2A#8
def Kind.runRequest : Byte := 0x30#8
def Kind.runCancel : Byte := 0x31#8
def Kind.arbiterSet : Byte := 0x32#8
def Kind.runAbort : Byte := 0x33#8
def Kind.runDropHead : Byte := 0x34#8
def Kind.runSetMask : Byte := 0x35#8
def Kind.resume : Byte := 0x36#8
def Kind.runStatus : Byte := 0x37#8
def Kind.feedReset : Byte := 0x38#8
def Kind.watchSet : Byte := 0x40#8
def Kind.watchRead : Byte := 0x41#8
def Kind.tableRead : Byte := 0x42#8
def Kind.siteResult : Byte := 0x43#8
def Kind.analyse : Byte := 0x44#8
def Kind.binConfig : Byte := 0x50#8
def Kind.binRelease : Byte := 0x51#8
def Kind.binStatus : Byte := 0x52#8

/-- The kinds with one body size, and that size (R186's table). -/
def fixedSizes : List (Byte × Nat) :=
  [(Kind.identify, 0), (Kind.status, 0), (Kind.configure, 13), (Kind.eventsRead, 9), (Kind.partReset, 0),
   (Kind.planRead, 1), (Kind.planFree, 1), (Kind.siteEnable, 5), (Kind.headLink, 4), (Kind.linkShift, 1),
   (Kind.supplySet, 2), (Kind.headAccess, 5), (Kind.headStandby, 1), (Kind.headWake, 1), (Kind.startConfig, 7),
   (Kind.headEvents, 3), (Kind.headStatus, 1), (Kind.headReset, 1), (Kind.runRequest, 2), (Kind.runCancel, 1)] ++
  [(Kind.arbiterSet, 1), (Kind.runAbort, 0), (Kind.runDropHead, 1), (Kind.runSetMask, 1), (Kind.resume, 0),
   (Kind.runStatus, 0), (Kind.feedReset, 0), (Kind.watchSet, 10), (Kind.watchRead, 1), (Kind.tableRead, 5),
   (Kind.siteResult, 2), (Kind.analyse, 4), (Kind.binConfig, 3), (Kind.binRelease, 1), (Kind.binStatus, 1)]

/-- The body sizes a kind allows; a kind that is not in the table is unknown (R186). -/
def allowedSize (kind : Byte) (n : Nat) : Bool :=
  if kind = Kind.planLoad then decide (23 ≤ n ∧ (n - 23) % 12 = 0)
  else
    match fixedSizes.find? (fun x => x.1 == kind) with
    | some x => x.2 == n
    | none => false

/-! ## Bodies (R186, 11.3) -/

/-- A region descriptor of a PLAN_LOAD body. -/
def regionBodyWire (r : RegionBody) : List Byte :=
  [r.bank] ++ be16 r.rowBase ++ be16 r.rowLimit ++ be16 r.columnBase ++ be16 r.columnLimit ++
    [r.spareRows, r.spareColumns, r.policy]

/-- A PLAN_LOAD body. -/
def planBodyWire (b : PlanBody) : List Byte :=
  [b.slot] ++ be32 b.patternId ++ [b.planClass, b.joinSet] ++ be16 b.quota ++ [b.expiry, b.masks, b.autoAnalyse] ++
    be16 b.autoBudget ++ b.outcomeMap.toList ++ [b.absentCode] ++ b.regions.flatMap regionBodyWire

/-- A CONFIGURE body. -/
def configureBodyWire (b : ConfigureBody) : List Byte :=
  be16 b.tallyTimeout ++ b.classMap.toList ++ [b.runNotices, b.analysisNotices, b.watchNotices]

/-- An EVENTS_READ body. -/
def eventsBodyWire (b : EventsBody) : List Byte := [b.partClear] ++ b.headClear.toList.flatMap be16

/-- A START_CONFIG body. -/
def startBodyWire (b : StartBody) : List Byte :=
  [b.head, b.polarity, b.width, b.wake, b.autoQueue, b.defaultSlot, b.notice]

/-- A WATCH_SET body. -/
def watchBodyWire (b : WatchBody) : List Byte :=
  [b.index, b.valid, b.head, b.site, b.bank] ++ be16 b.row ++ be16 b.column ++ [b.hold]

/-! ## The Request Window -/

/-- Requests accepted and not yet taken by their owner (R175). -/
def ControlPort.hasUntaken (p : ControlPort) : Bool := p.window.any fun e => e.stage != .taken

/-- A request with the tag is in the window. -/
def ControlPort.holdsTag (p : ControlPort) (tag : Byte) : Bool := p.window.any fun e => e.request.tag == tag

/-- The framer is in no frame: the next sync byte begins one (R172). -/
def Framer.betweenFrames : Framer → Bool
  | .hunt => true
  | .synced => true
  | .inFrame _ => false

/-- The request is the next for its owner: the first of the window that is not yet taken (R175). It has been handed
on, or nothing stands before its handing on, which the step that takes it then includes (log 4). -/
def ControlPort.atOwner (p : ControlPort) (q : Request) : Bool :=
  match p.window.find? (fun e => e.stage != .taken) with
  | some e => e.request == q
  | none => false

/-- The entry checks would accept the request (R174, cases 1 to 4 do not apply). -/
def ControlPort.accepts (p : ControlPort) (q : Request) : Bool :=
  q.tag != 0#8 && !p.holdsTag q.tag && decide (p.window.length < Config.windowSize) &&
    allowedSize q.kind q.body.length

/-- The owner has taken the request (R175). -/
def ControlPort.markTaken (p : ControlPort) (tag : Byte) : ControlPort :=
  { p with window := p.window.map fun e => if e.request.tag = tag then { e with stage := .taken } else e }

/-- The port when the owner takes the request (log 4): it stands in the window as the next for its owner and is taken
now; or its frame arrives now, between two frames, whole and good, is accepted, finds no request waiting before it, and
is handed on and taken in the same step. A good frame leaves the framer SYNCED (R172). Otherwise the request is not at
its owner. -/
def ControlPort.offer (p : ControlPort) (q : Request) : Option ControlPort :=
  if p.atOwner q then some (p.markTaken q.tag)
  else if p.framer.betweenFrames && p.accepts q && !p.hasUntaken then
    some { p with framer := .synced, window := p.window ++ [⟨q, .taken⟩] }
  else none

/-- The refusal replies that wait to be sent (R174). -/
def ControlPort.refusals (p : ControlPort) : Nat := (p.replies.filter fun r => !r.accepted).length

/-- A refusal at the port: its reply joins the reply list, or, with 8 refusals waiting, the frame is discarded and
FRAME_ERROR is set (R174). -/
def ControlPort.refuseFrame (p : ControlPort) (q : Request) (st : Status) : ControlPort :=
  if p.refusals < Config.refusalLimit then { p with replies := p.replies ++ [⟨q.kind, q.tag, st, [], false⟩] }
  else p.setFlag PartFlag.frameError

/-- The entry checks on a good frame, in their order (R174). -/
def ControlPort.entryCheck (q : Request) (p : ControlPort) : ControlPort :=
  if q.tag = 0#8 then p.refuseFrame q .badRequest
  else if p.holdsTag q.tag then p.setFlag PartFlag.tagClash
  else if Config.windowSize ≤ p.window.length then p.refuseFrame q .busy
  else if allowedSize q.kind q.body.length then { p with window := p.window ++ [⟨q, .accepted⟩] }
  else p.refuseFrame q .badRequest

/-- The arrival of a whole good frame: the framer is SYNCED after it, and the entry checks take it (R172, R174). -/
def ControlPort.arrive (q : Request) (p : ControlPort) : ControlPort :=
  ControlPort.entryCheck q { p with framer := .synced }

/-- The first request accepted and not yet handed on becomes handed on. -/
def handOnFirst : List WindowEntry → List WindowEntry
  | [] => []
  | e :: rest => if e.stage = .accepted then { e with stage := .handedOn } :: rest else e :: handOnFirst rest

/-- The next request is handed on, in order of acceptance, once the owner has taken the one before (R175). -/
def ControlPort.handOn (p : ControlPort) : ControlPort :=
  if p.window.any (fun e => e.stage == .handedOn) then p else { p with window := handOnFirst p.window }

/-! ## The receive framer (R172, R173) -/

/-- The bytes after the sync byte make a whole frame or are still to be continued. -/
def ControlPort.collect (p : ControlPort) (got : List Byte) : ControlPort :=
  match got with
  | hi :: lo :: rest =>
    let length := (half hi lo).toNat
    if length < 2 ∨ 1026 < length then
      { p.setFlag PartFlag.frameError with framer := .hunt }
    else if rest.length < length + 2 then { p with framer := .inFrame got }
    else
      match rest with
      | kind :: tag :: tail =>
        let body := tail.take (length - 2)
        let covered := hi :: lo :: kind :: tag :: body
        if be16 (crc16 covered) = tail.drop (length - 2) then
          ControlPort.arrive ⟨tag, kind, body⟩ p
        else { p.setFlag PartFlag.frameError with framer := .hunt }
      | _ => { p with framer := .inFrame got }
  | _ => { p with framer := .inFrame got }

/-- One byte received from the host (R172). -/
def ControlPort.receive (p : ControlPort) (b : Byte) : ControlPort :=
  match p.framer with
  | .hunt => if b = Config.syncByte then { p with framer := .inFrame [] } else p
  | .synced =>
    if b = Config.syncByte then { p with framer := .inFrame [] }
    else { p.setFlag PartFlag.frameError with framer := .hunt }
  | .inFrame got => p.collect (got ++ [b])

/-! ## Reaching the owner -/

/-- The frame of a request comes in, byte after byte. Between two frames it passes the framer whole; in a frame its
bytes complete the one that was begun, whatever they make of it (R172). -/
def ControlPort.receiveFrame (q : Request) (p : ControlPort) : ControlPort :=
  if p.framer.betweenFrames then p.arrive q else (controlFrame q.kind q.tag q.body).foldl ControlPort.receive p

/-- The owner takes the request when it is at its owner; otherwise the command is the coming in of its frame,
which the port takes as it does any bytes (log 4). -/
def takeRequest (q : Request) (owner : State → State) (s : State) : State :=
  match s.port.offer q with
  | some p => owner { s with port := p }
  | none => (s.onPort (ControlPort.receiveFrame q)).emit

/-- The request a command stands for; a command that is no request has none (R186). -/
def requestOf : Instr → Option Request
  | .identify t => some ⟨t, Kind.identify, []⟩
  | .status t => some ⟨t, Kind.status, []⟩
  | .configure t b => some ⟨t, Kind.configure, configureBodyWire b⟩
  | .eventsRead t b => some ⟨t, Kind.eventsRead, eventsBodyWire b⟩
  | .partReset t => some ⟨t, Kind.partReset, []⟩
  | .planLoad t b => some ⟨t, Kind.planLoad, planBodyWire b⟩
  | .planRead t x => some ⟨t, Kind.planRead, [x]⟩
  | .planFree t x => some ⟨t, Kind.planFree, [x]⟩
  | .siteEnable t h set => some ⟨t, Kind.siteEnable, [h] ++ be32 set⟩
  | .headLink t h e l m => some ⟨t, Kind.headLink, [h, e, l, m]⟩
  | .linkShift t h => some ⟨t, Kind.linkShift, [h]⟩
  | .supplySet t h x => some ⟨t, Kind.supplySet, [h, x]⟩
  | .headAccess t h d r v => some ⟨t, Kind.headAccess, [h, d, r] ++ be16 v⟩
  | .headStandby t h => some ⟨t, Kind.headStandby, [h]⟩
  | .headWake t h => some ⟨t, Kind.headWake, [h]⟩
  | .startConfig t b => some ⟨t, Kind.startConfig, startBodyWire b⟩
  | .headEvents t h e => some ⟨t, Kind.headEvents, [h] ++ be16 e⟩
  | .headStatus t h => some ⟨t, Kind.headStatus, [h]⟩
  | .headReset t h => some ⟨t, Kind.headReset, [h]⟩
  | .runRequest t h x => some ⟨t, Kind.runRequest, [h, x]⟩
  | .runCancel t h => some ⟨t, Kind.runCancel, [h]⟩
  | .arbiterSet t e => some ⟨t, Kind.arbiterSet, [e]⟩
  | .runAbort t => some ⟨t, Kind.runAbort, []⟩
  | .runDropHead t h => some ⟨t, Kind.runDropHead, [h]⟩
  | .runSetMask t m => some ⟨t, Kind.runSetMask, [m]⟩
  | .resume t => some ⟨t, Kind.resume, []⟩
  | .runStatus t => some ⟨t, Kind.runStatus, []⟩
  | .feedReset t => some ⟨t, Kind.feedReset, []⟩
  | .watchSet t b => some ⟨t, Kind.watchSet, watchBodyWire b⟩
  | .watchRead t i => some ⟨t, Kind.watchRead, [i]⟩
  | .tableRead t h x a n => some ⟨t, Kind.tableRead, [h, x] ++ be16 a ++ [n]⟩
  | .siteResult t h x => some ⟨t, Kind.siteResult, [h, x]⟩
  | .analyse t h b f => some ⟨t, Kind.analyse, [h] ++ be16 b ++ [f]⟩
  | .binConfig t h f x => some ⟨t, Kind.binConfig, [h, f, x]⟩
  | .binRelease t h => some ⟨t, Kind.binRelease, [h]⟩
  | .binStatus t h => some ⟨t, Kind.binStatus, [h]⟩
  | .powerOnReset => none
  | .controlFrameReceive _ => none
  | .controlByteDiscard _ => none
  | .requestHandOn => none
  | .frameSent => none
  | .accept _ => none
  | .decline _ => none
  | .acceptTimeout => none
  | .block _ => none
  | .gateOpen _ => none
  | .gateClose => none
  | .endRecord => none
  | .halted => none
  | .resetDone => none
  | .feedMessageIllFormed _ => none
  | .haltTimeout => none
  | .feedResetTimeout => none
  | .tallyTimeoutDeciding => none
  | .tallyTimeoutDraining => none
  | .fail _ _ _ _ _ => none
  | .passTally _ _ _ _ => none
  | .endTally _ => none
  | .allocatorMove => none
  | .binDelivery _ => none
  | .binStaleExpiry _ => none
  | .startLineChange _ _ => none
  | .startCandidateExpiry _ => none
  | .alignMarkPlaced _ => none
  | .alignMarkMisplaced _ _ => none
  | .signalLoss _ => none
  | .reseekTimerExpiry _ => none
  | .headFrameDiscard _ _ => none
  | .serviceReply _ _ _ _ => none
  | .serviceTimeout _ => none
  | .supplyTrip _ => none
  | .bclkEdge _ _ => none

end Sys2Proof.Machine
end

