-- ==== Sys2Proof/Machine/SiteOps.lean ====
section
/-!
DEFINITION. What the events of the other blocks do to Site Contexts and to the entries of a head (chapter 3; R25 to
R27).
-/

namespace Sys2Proof.Machine

/-- One pair of spare counters for each region descriptor, whatever its policy (R31, R48). -/
def Plan.spares (p : Plan) : List Spares := p.regions.map fun r => ⟨r.spareRows, r.spareColumns⟩

/-- A READY site becomes TESTING at the ACCEPT: flags clear, counts 0, spares loaded (R48). -/
def SiteContext.startRun (e : RunEntry) (c : SiteContext) : SiteContext :=
  if c.state = .ready then { SiteContext.blank .testing with entry := some e } else c

/-- The site takes part in the run that ends: it is TESTING, PARKED or DROPPED (R55, R56). -/
def SiteContext.inPlay (c : SiteContext) : Bool :=
  c.state == .testing || c.state == .parked || c.state == .dropped

/-- The normal end of the run (R55). -/
def SiteContext.endNormal (c : SiteContext) : SiteContext :=
  if c.inPlay then { c with state := .ended, parkLevel := none } else c

/-- A drop or an abort: sites in play become ENDED with the aborted flag and its cause; READY sites, in a run that
was not accepted, also take the run's slot, number and spares (R56). -/
def SiteContext.endAborted (cause : AbortCause) (e : Option RunEntry) (c : SiteContext) : SiteContext :=
  if c.inPlay then { c with state := .ended, parkLevel := none, aborted := some cause }
  else if c.state = .ready then { SiteContext.blank .ended with entry := e, aborted := some cause }
  else c

/-- Release after bin delivery or BIN_RELEASE: a RESOLVED site becomes READY and keeps its flags, abort cause, fail
count and unmapped count; the entries of every site have been freed (R59, R27). -/
def SiteContext.release (c : SiteContext) : SiteContext :=
  if c.state = .resolved then
    { c with state := .ready, entry := none, outcome := none, repairList := none, entriesHeld := 0 }
  else { c with entriesHeld := 0 }

/-- SITE_ENABLE: an OFF site of the set becomes READY, a READY site outside it becomes OFF and loses its last-run
flags and counts; a site whose enable is unchanged keeps its state and fields (R47). -/
def SiteContext.enable (on : Bool) (c : SiteContext) : SiteContext :=
  if on && c.state == .off then SiteContext.blank .ready
  else if !on && c.state == .ready then SiteContext.blank .off
  else c

/-- HEAD_RESET: READY or OFF by the enable set, every other field cleared (R61). -/
def SiteContext.afterReset (on : Bool) : SiteContext := SiteContext.blank (if on then .ready else .off)

/-- The order to set capture_lost is carried out for the run it names, on a site TESTING, PARKED, DROPPED or ENDED,
and discarded otherwise (R52). -/
def SiteContext.orderCaptureLost (runNumber : Half) (c : SiteContext) : SiteContext :=
  if (c.entry.map RunEntry.runNumber) = some runNumber ∧ (c.inPlay ∨ c.state = .ended) then
    { c with captureLost := true }
  else c

namespace State

/-- The entries of every site of the head become FREE (R26, R27). -/
def freeHeadEntries (h : HeadId) (s : State) : State :=
  s.onCapture fun c => { c with table := c.table.free fun e => e.head == h }

/-- Every site of the head is released, and its entries are freed (R59, R27). -/
def releaseSites (h : HeadId) (s : State) : State :=
  (s.mapSites h fun _ c => c.release).freeHeadEntries h

/-- The plan slot the head uses while ANALYSIS or BIN_WAIT: that of the sites it started (section 2.4). -/
def siteSlot (h : HeadId) (s : State) : Option SlotId :=
  (s.sites[h].toList.findSome? fun c => c.entry).map RunEntry.slot

/-- The plan slot the head uses: in its queue entry, the Run Record or its sites (section 2.4). -/
def headSlot (h : HeadId) (s : State) : Option SlotId :=
  match (s.head h).state with
  | .queued => (s.arbiter.queue.find? fun e => e.head == h).map QueueEntry.slot
  | .inRun => s.run.slot
  | .analysis => s.siteSlot h
  | .binWait => s.siteSlot h
  | _ => none

/-- The use count of a slot rises by one (R36). -/
def useSlot (slot : SlotId) (s : State) : State :=
  s.onStore fun p => { p with slots := upd p.slots slot fun x => { x with useCount := x.useCount + 1 } }

/-- The use count of a slot falls by one (R37). -/
def dropUse (slot : Option SlotId) (s : State) : State :=
  match slot with
  | none => s
  | some i => s.onStore fun p => { p with slots := upd p.slots i fun x => { x with useCount := x.useCount - 1 } }

end State

end Sys2Proof.Machine
end

