-- ==== Sys2Proof/Machine/RunOps.lean ====
section
/-!
DEFINITION. The shared operations of a run: the grant (R87 to R90), forwarding (R98), the gate decision (R120 to
R125), the run ends (R96, R100, R102), the abort (R101), the drop of a head (R109, R110, R126), and the raising of
run exceptions with their defaults and holds (R128 to R135).
-/

namespace Sys2Proof.Machine

namespace State

/-! ## Run end -/

/-- What every run end leaves: the fields that last from grant to run end are absent, the state is NONE, the timer
stopped, the paused mark clear and the buffer empty (R91, R105, R135), and the Gate Unit is emptied (R111). -/
def clearRun (s : State) : State :=
  { s with
    run := { s.run with slot := none, group := 0, state := .none, returnState := none, masks := 0, hold := none,
                        paused := false, tallied := 0, timer := none, buffer := [] }
    gates := .reset }

/-- A job joins the Analysis Queue behind every job already queued (R63, R64). -/
def addJob (j : Job) (s : State) : State := s.onAlloc fun a => { a with jobs := a.jobs ++ [j] }

/-- Under auto-analyse one AUTO job is queued for each head of the set, in ascending head number, with the plan's
auto budget and force off (R65). -/
def autoJobs (plan : Option Plan) (set : HeadSet) (s : State) : State :=
  match plan with
  | some p =>
    if p.autoAnalyse then s.forHeads set fun h => addJob ⟨h, p.autoBudget, false, .auto⟩ else s
  | none => s

/-- What a site of the run takes when it enters it (R48, R56). -/
def runEntry (s : State) : Option RunEntry :=
  match s.run.slot, s.runPlan with
  | some slot, some p => some ⟨slot, s.run.runNumber, p.spares⟩
  | _, _ => none

/-- The normal end of the run (R100). -/
def normalEnd (s : State) : State :=
  let ended := s.forHeads s.run.group fun h t =>
    (t.mapSites h fun _ c => c.endNormal).setHeadState h .analysis
  ((ended.autoJobs s.runPlan s.run.group).runNotice
    (.runEnded s.run.runNumber none s.run.exceptions)).clearRun

/-- The abort cause of the sites that the end of an aborted run ends: HOST for RUN_ABORT, FEED for a fault (R56). An
emptied group leaves no site to end. -/
def endCause (s : State) : AbortCause := if s.run.abortCause = some .feed then .feed else .host

/-- The end of an aborted run (R102). -/
def abortedEnd (s : State) : State :=
  let ended := s.forHeads s.run.group fun h t =>
    (t.mapSites h fun _ c => c.endAborted s.endCause s.runEntry).setHeadState h .analysis
  ((ended.autoJobs s.runPlan s.run.group).runNotice
    (.runEnded s.run.runNumber s.run.abortCause s.run.exceptions)).clearRun

/-- The run ends without starting, by DECLINE or by the ACCEPT timeout (R96). -/
def endWithoutStart (why : StartFailure) (s : State) : State :=
  let ended := s.forHeads s.run.group fun h t =>
    (((t.sendHead h .runStop).setHeadState h .idle).raiseFlag h HeadFlag.runDeclined).dropUse s.run.slot
  (ended.onRun fun r => { r with startFailure := some why }).clearRun

/-! ## Abort -/

/-- The abort begins, from any state of the run other than NONE and HALTING (R101). -/
def abortRun (cause : RunAbort) (s : State) : State :=
  if s.run.state = .none ∨ s.run.state = .halting then s
  else
    let sent := (s.sendSource .halt).forHeads s.run.group fun h => sendHead h .runStop
    sent.onRun fun r =>
      { r with abortCause := some cause, buffer := [], hold := none, returnState := none, paused := false,
               tallied := 0, state := .halting, timer := some Config.fiftyMs }

/-- A non-maskable fault: its flag in the Exception Word, the part flag FEED_FAULT, and the abort with cause FEED
(R129, R101). -/
def feedFault (f : RunFault) (s : State) : State :=
  ((s.onRun (RunController.setException f.bit)).setPartFlag PartFlag.feedFault).abortRun .feed

/-! ## Gates -/

/-- A record forwarded to the group as it stands, one FEED frame down each Head Link (R98). -/
def forward (r : FeedRecord) (s : State) : State := s.forHeads s.run.group fun h => sendHead h (.feed r)

/-- The heads that have tallied for the current close (R111). -/
def collectedSet (s : State) : HeadSet := setOfFin 4 fun h => (s.gates.collected[h]).isSome

/-- Every head of the group is in the tally collection set (R120). -/
def allCollected (s : State) : Bool := s.run.group &&& s.collectedSet == s.run.group

/-- Every head of the group is in the tally set (R99). -/
def allTallied (s : State) : Bool := s.run.group &&& s.run.tallied == s.run.group

/-- The sites that this decision parks on a head: in the level's entry set, TESTING, and in the head's match set
(R121). -/
def matchedSites (lvl : GateLevel) (s : State) (h : HeadId) : SiteSet :=
  if s.run.group.getLsbD h.val then lvl.entry[h] &&& s.testing h &&& (s.gates.collected[h]).getD 0 else 0

/-- The sites of the entry set that are TESTING, of the heads of the group (R122). -/
def remainingSites (lvl : GateLevel) (s : State) (h : HeadId) : SiteSet :=
  if s.run.group.getLsbD h.val then lvl.entry[h] &&& s.testing h else 0

/-- Sites of one head park at a depth, and the head is sent PARK (R121, R53). -/
def parkSites (depth pass : Nat) (set : SiteSet) (h : HeadId) (s : State) : State :=
  (s.mapSites h fun i c =>
    if set.getLsbD i.val then { c with state := .parked, parkLevel := some depth } else c).sendHead h
      (.park depth pass set)

/-- Sites of one head expire; under DROP they become DROPPED and the head is sent DROP, when there is any (R123). -/
def expireSites (policy : Expiry) (depth : Nat) (set : SiteSet) (h : HeadId) (s : State) : State :=
  match policy with
  | .drop =>
    let t := s.mapSites h fun i c =>
      if set.getLsbD i.val then { c with expired := true, state := .dropped } else c
    if set = 0 then t else t.sendHead h (.drop depth set)
  | .continue => s.mapSites h fun i c => if set.getLsbD i.val then { c with expired := true } else c

/-- Sites of one head leave the parked set of the level that exits, and the head is sent UNPARK (R124, R53). -/
def unparkSites (depth : Nat) (set : SiteSet) (h : HeadId) (s : State) : State :=
  (s.mapSites h fun i c =>
    if set.getLsbD i.val then { c with state := .testing, parkLevel := none } else c).sendHead h (.unpark depth set)

/-- The decision is over: the timer is stopped, the run streams and the tally collection set is empty (R120). -/
def afterDecision (s : State) : State :=
  (s.onRun fun r => { r with timer := none, state := .streaming }).onGates fun g =>
    { g with collected := Vector.replicate 4 none }

/-- An EXIT decision pops the level (R124). -/
def exitLevel (lvl : GateLevel) (below : List GateLevel) (s : State) : State :=
  let t := s.forHeads s.run.group fun h => unparkSites (below.length + 1) lvl.parked[h] h
  (t.onGates fun g => { g with levels := below }).sendSource .decideExit

/-- A REPEAT decision keeps the level with its new pass count (R125). -/
def repeatLevel (lvl : GateLevel) (below : List GateLevel) (s : State) : State :=
  (s.onGates fun g => { g with levels := lvl :: below }).sendSource .decideRepeat

/-- The level after the parking of a decision (R121). -/
def parkedLevel (lvl : GateLevel) (s : State) : GateLevel :=
  { lvl with passCount := lvl.passCount + 1,
             parked := Vector.ofFn fun h => lvl.parked[h] ||| s.matchedSites lvl h }

/-- After parking: EXIT, EXIT with expiry at the limit, or REPEAT, by the first case that holds (R122). -/
def decideLevel (lvl : GateLevel) (below : List GateLevel) (s : State) : State :=
  if allHeads.all fun h => s.remainingSites lvl h == 0 then s.exitLevel lvl below
  else if lvl.passCount = lvl.limit then
    let policy := ((s.runPlan).map Plan.expiry).getD .drop
    (s.forHeads s.run.group fun h =>
      expireSites policy (below.length + 1) (s.remainingSites lvl h) h).exitLevel lvl below
  else s.repeatLevel lvl below

/-- The decision of the top level, taken whole (R120 to R125). -/
def makeDecision (s : State) : State :=
  match s.gates.levels with
  | [] => s
  | lvl :: below =>
    let parked := s.forHeads s.run.group fun h =>
      parkSites (below.length + 1) (lvl.passCount + 1) (s.matchedSites lvl h) h
    (parked.decideLevel (s.parkedLevel lvl) below).afterDecision

/-! ## Drop of a head -/

/-- The head leaves the entry set and the parked set of a level (R126). -/
def gateLevelWithout (h : HeadId) (l : GateLevel) : GateLevel :=
  { l with entry := upd l.entry h fun _ => 0, parked := upd l.parked h fun _ => 0 }

/-- The drop itself: group, tally sets, levels, sites, RUN_STOP, head state and flag (R109, R126, R56). -/
def removeHead (h : HeadId) (cause : AbortCause) (s : State) : State :=
  let e := s.runEntry
  let bit : HeadSet := ~~~(1#4 <<< h.val)
  let t := s.onRun fun r => { r with group := r.group &&& bit, tallied := r.tallied &&& bit }
  let t := t.onGates fun g =>
    { g with levels := g.levels.map (gateLevelWithout h), collected := upd g.collected h fun _ => none }
  (((t.mapSites h fun _ c => c.endAborted cause e).sendHead h .runStop).setHeadState h .analysis).raiseFlag h
    HeadFlag.dropped

/-- The effect of a drop on the run (R110, R126). -/
def afterDrop (s : State) : State :=
  if s.run.group = 0 then s.abortRun .groupEmpty
  else
    match s.run.state with
    | .deciding => if s.allCollected then s.makeDecision else s
    | .draining => if s.allTallied then s.normalEnd else s
    | _ => s

/-- A head of the group is dropped from the run; a head that has left it is not dropped again (R108 to R110). -/
def dropHead (h : HeadId) (cause : AbortCause) (s : State) : State :=
  if s.run.group.getLsbD h.val then (s.removeHead h cause).afterDrop else s

/-! ## Run exceptions -/

/-- The group heads whose tally is missing (R119, R99). -/
def missingHeads (s : State) : HeadSet :=
  match s.run.state with
  | .deciding => s.run.group &&& ~~~s.collectedSet
  | .draining => s.run.group &&& ~~~s.run.tallied
  | _ => 0

/-- The default action of an exception, on the state as it stands when it is applied (R128). -/
def applyDefault (r : Raise) (s : State) : State :=
  match r.cause with
  | .gateOverflow => s.onGates fun g => { g with phantom := satInc 65535 g.phantom }
  | .gateUnderflow => s.sendSource .decideExit
  | .tableFull | .quota =>
    match r.head, r.site with
    | some h, some i => s.onSite h i (SiteContext.orderCaptureLost s.run.runNumber)
    | _, _ => s
  | .unmapped => s
  | .watch => s
  | .tallyLate => s.forHeads s.missingHeads fun h => dropHead h .tally

/-- An unmasked exception holds the run (R134, R135). -/
def holdRun (r : Raise) (s : State) : State :=
  let record : HoldRecord := ⟨r, s.run.recordCount, s.gates.levels.length, s.gates.phantom, false⟩
  let pauses : Bool := s.run.state == .streaming && !s.run.paused
  let t := if pauses then s.sendSource .pause else s
  (t.onRun fun c =>
    { c with hold := some record, returnState := some c.state, paused := c.paused || pauses, timer := none,
             state := .held }).runNotice (.runHeld s.run.runNumber s.run.state record)

/-- The more mark of the Hold Record (R132). -/
def setMore (s : State) : State :=
  s.onRun fun r => { r with hold := r.hold.map fun x => { x with more := true } }

/-- The Run Controller takes a raise, by the mask of the exception and the state of the run (R132). A raise that
finds no run that can take it is discarded (R133). -/
def raiseException (r : Raise) (s : State) : State :=
  let t := s.onRun (RunController.setException r.cause.bit)
  match s.run.state with
  | .none => s
  | .starting => s
  | .held => (t.setMore).applyDefault r
  | .halting => t.applyDefault r
  | _ => if s.run.masked r.cause then t.applyDefault r else t.holdRun r

/-! ## The raises of fail words -/

/-- The Run Controller takes a raise that was handed to it; one that finds NONE, or a run of another number, is
discarded (R133). -/
def takeRaise (r : HandedRaise) (s : State) : State :=
  if s.run.state = .none ∨ s.run.runNumber ≠ r.runNumber then s else s.raiseException r.raise

/-- The Run Controller takes some raises in their order, each whole (R133). -/
def takeEach (l : List HandedRaise) (s : State) : State := l.foldl (fun (t : State) r => t.takeRaise r) s

/-- The Run Controller takes every raise that waits, in the order in which they were handed to it (R133). -/
def takeRaises (s : State) : State := (s.onCapture fun c => { c with raises := [] }).takeEach s.capture.raises

/-- The Run Controller takes the raises of the oldest word that has raises waiting: a WATCH and the second exception of
its word together, so that no event comes between them (R19, R133, log 29). -/
def takeOldestRaises (s : State) : State :=
  match s.capture.raises with
  | [] => s
  | r :: rest =>
    ((s.onCapture fun c => { c with raises := rest.dropWhile HandedRaise.follows }).takeEach
      (r :: rest.takeWhile HandedRaise.follows)).emit

/-! ## The grant -/

/-- A queue entry is eligible when its head's link is LOCKED, its supply ON and its enable set not empty (R87). -/
def eligible (s : State) (e : QueueEntry) : Bool :=
  (s.head e.head).link == .locked && (s.head e.head).supply == .on && (s.head e.head).enableSet != 0

/-- The highest level among the entries, the earliest of equals (R89). -/
def winnerOf : List QueueEntry → Option QueueEntry
  | [] => none
  | e :: rest =>
    match winnerOf rest with
    | none => some e
    | some w => if e.level < w.level then some w else some e

/-- The winner of a grant (R89). -/
def winner (s : State) : Option QueueEntry := winnerOf (s.arbiter.queue.filter s.eligible)

/-- An entry is in the group: the winner, or an eligible entry of the winner's slot whose head the join set names
(R89). -/
def joins (s : State) (w : QueueEntry) (p : Plan) (e : QueueEntry) : Bool :=
  e == w || (s.eligible e && e.slot == w.slot && p.joinSet.getLsbD e.head.val)

/-- The group of a grant (R89). -/
def groupOf (s : State) (w : QueueEntry) (p : Plan) : HeadSet :=
  setOfFin 4 fun h => s.arbiter.queue.any fun e => e.head == h && s.joins w p e

/-- The run number after a run number; after 65535 comes 1 (R90). -/
def nextRunNumber (n : Half) : Half := if n = 0xFFFF#16 then 1 else n + 1

/-- The grant of the source to a group and the beginning of its run (R89, R90). -/
def grantTo (w : QueueEntry) (p : Plan) (s : State) : State :=
  let group := s.groupOf w p
  let number := nextRunNumber s.run.runNumber
  let t := s.onArbiter fun a => { a with queue := a.queue.filter fun e => !s.joins w p e }
  let t := t.onRun fun r =>
    { r with runNumber := number, slot := some w.slot, group := group, state := .starting, returnState := none,
             recordCount := 0, exceptions := 0, masks := p.masks, hold := none, paused := false, tallied := 0,
             abortCause := none, startFailure := none, timer := some Config.fiftyMs }
  (t.sendSource (.start number p.patternId)).forHeads group fun h u =>
    (u.setHeadState h .inRun).sendHead h (.runBegin number (u.head h).enableSet)

/-- The Run Arbiter makes a grant when all four conditions hold (R88). -/
def grantCheck (s : State) : State :=
  if s.arbiter.enabled ∧ s.run.state = .none ∧ s.run.linkReady = true then
    match s.winner with
    | none => s
    | some w =>
      match s.planAt w.slot with
      | some p => s.grantTo w p
      | none => s
  else s

/-- The idle engine takes the oldest job into service (R66). -/
def startEngine (s : State) : State :=
  s.onAlloc fun a =>
    match a.engine, a.jobs with
    | none, _ :: _ => { a with engine := some ⟨0, false, 0, 0, none⟩ }
    | _, _ => a

/-- The end of a step that may complete the grant conditions or queue a job: the HEAD_EVENT notices of its events,
then the grant that follows (R88), the engine's taking of a job (R66), and the transmitter (R177). -/
def settle (s : State) : State := s.flushEvents.grantCheck.startEngine.emit

end State

end Sys2Proof.Machine
end

