-- ==== Sys2Proof/Machine/HeadOps.lean ====
section
/-!
DEFINITION. The shared operations of a Head Manager: joining the Run Request Queue (R84, R85), the Service Slot and
the ends of its services (R149 to R154), the start filter and the START edge (R155, R156), the link (R143 to R147).
-/

namespace Sys2Proof.Machine

/-- The timeout of an operation (R149). -/
def ServiceOp.timeout : ServiceOp → Nat
  | .supplyOn => Config.supplyTimeout
  | .supplyOff => Config.supplyTimeout
  | .headRead _ => Config.registerTimeout
  | .headWrite _ _ => Config.registerTimeout
  | .headSleep => Config.sleepTimeout
  | .headWake _ => Config.sleepTimeout

/-- The kind of the request that issues an operation (R149). -/
def ServiceOp.kind : ServiceOp → Byte
  | .supplyOn => Kind.supplySet
  | .supplyOff => Kind.supplySet
  | .headRead _ => Kind.headAccess
  | .headWrite _ _ => Kind.headAccess
  | .headSleep => Kind.headStandby
  | .headWake _ => Kind.headWake

/-- How a service ends: by a matching reply, or by its timeout (R149). -/
inductive ServiceEnd where
  | reply (result : ServiceResult) (value : Half)
  | timeout
  deriving DecidableEq, Repr

namespace State

/-! ## Joining the Run Request Queue -/

/-- A head joins the queue with a LOADED slot: entry at the back with the plan's class and the level the Class Map
gives it, head QUEUED, use count incremented (R83, R84, R36). With the slot EMPTY nothing happens (R85). -/
def join (h : HeadId) (slot : SlotId) (s : State) : State :=
  match s.planAt slot with
  | none => s
  | some p =>
    ((s.onArbiter fun a =>
      { a with queue := a.queue ++ [⟨h, slot, p.planClass, s.store.classMap[p.planClass]⟩] }).setHeadState h
        .queued).useSlot slot

/-- A head joins with its default plan slot, when one is set and LOADED (R85). -/
def joinDefault (h : HeadId) (s : State) : State :=
  match (s.head h).defaultSlot with
  | none => s
  | some slot => s.join h slot

/-- The head's entry leaves the queue; the other entries keep their order (R86). -/
def unqueue (h : HeadId) (s : State) : State :=
  s.onArbiter fun a => { a with queue := a.queue.filter fun e => e.head != h }

/-- An entry leaves without a grant: entry removed, head in the given state, use count decremented (R86). -/
def withdraw (h : HeadId) (after : HeadState) (s : State) : State :=
  ((s.unqueue h).setHeadState h after).dropUse (s.headSlot h)

/-! ## The Service Slot -/

/-- Issue a service: the number is incremented, the SERVICE frame sent, the timer set and the slot busy (R149). -/
def issueService (h : HeadId) (op : ServiceOp) (origin : ServiceOrigin) (s : State) : State :=
  let n := (s.head h).serviceNumber + 1
  (s.onHead h fun c => { c with serviceNumber := n, slot := some ⟨op, origin, n, op.timeout⟩ }).sendHead h
    (.service n op)

/-- Answer the request of a service of host origin; a service of INTERNAL origin sends no reply (R149). -/
def answerService (sv : Service) (st : Status) (fields : List Byte) (s : State) : State :=
  match sv.origin with
  | .host tag => s.answer sv.op.kind tag st fields
  | .internal => s

/-- The fields of a reply with NO_ANSWER or ABANDONED: the supply state for SUPPLY_SET, none for the others
(section 10.3, log 14). -/
def lateFields (h : HeadId) (op : ServiceOp) (s : State) : List Byte :=
  match op with
  | .supplyOn => [(s.head h).supply.code]
  | .supplyOff => [(s.head h).supply.code]
  | _ => []

/-- The head's supply becomes `x`. -/
def setSupply (h : HeadId) (x : SupplyState) (s : State) : State := s.onHead h fun c => { c with supply := x }

/-! ## The start filter -/

/-- A head that is STANDBY with a width other than off has its filter's clock stopped: a running candidate is
abandoned (R155). -/
def pauseFilter (h : HeadId) (s : State) : State :=
  s.onHead h fun c => if c.state = .standby ∧ c.width ≠ .off then { c with candidate := none } else c

/-- When the head leaves STANDBY, the filter compares the line with its recognised level and begins a candidate if
they differ (R155, log 12). -/
def resumeFilter (h : HeadId) (s : State) : State :=
  s.onHead h fun c =>
    if c.recognised ≠ s.lines[h].start ∧ c.candidate = none then
      { c with candidate := some ⟨s.lines[h].start, c.width⟩ }
    else c

/-! ## Wake -/

/-- A wake moves the head from STANDBY to WAKING and issues HEAD_WAKE (R154). -/
def startWake (h : HeadId) (origin : ServiceOrigin) (queueMark : Bool) (s : State) : State :=
  ((s.issueService h (.headWake queueMark) origin).setHeadState h .waking).resumeFilter h

/-- When the slot is free with a pending wake present, the wake is issued and becomes absent (R149, R154). -/
def issuePendingWake (h : HeadId) (s : State) : State :=
  match (s.head h).slot, (s.head h).pendingWake with
  | none, some mark => (s.onHead h fun c => { c with pendingWake := none }).startWake h .internal mark
  | _, _ => s

/-- A START edge with W on in STANDBY: a wake whose queue mark is Q, kept pending while the slot is busy (R154). -/
def edgeWake (h : HeadId) (s : State) : State :=
  let c := s.head h
  match c.slot with
  | none => s.startWake h .internal c.autoQueue
  | some _ =>
    s.onHead h fun c => { c with pendingWake := some (c.pendingWake.getD false || c.autoQueue) }

/-- A START edge, by head state, W and Q (R156). -/
def startEdge (h : HeadId) (s : State) : State :=
  let t := s.raiseFlag h HeadFlag.startSeen
  match (s.head h).state with
  | .offline => t
  | .standby => if (s.head h).wakeOnStart then t.edgeWake h else t
  | .idle => if (s.head h).autoQueue then t.joinDefault h else t
  | _ => t.raiseFlag h HeadFlag.startEarly

/-- The edge direction that a recognised level ends (R155). -/
def edgeTo (level : LineLevel) : Polarity :=
  match level with
  | .low => .falling
  | .high => .rising

/-- A level is recognised: the candidate ends, and an edge of the configured polarity is a START edge (R155). -/
def recognise (h : HeadId) (level : LineLevel) (s : State) : State :=
  let t := s.onHead h fun c => { c with recognised := level, candidate := none }
  if (s.head h).recognised ≠ level ∧ edgeTo level = (s.head h).polarity then t.startEdge h else t

/-- A change of the START line as the filter takes it (R155). -/
def filterChange (h : HeadId) (level : LineLevel) (s : State) : State :=
  let c := s.head h
  if level = c.recognised then s.onHead h fun c => { c with candidate := none }
  else if c.width = .off then s.recognise h level
  else if c.state = .standby then s
  else s.onHead h fun c => { c with candidate := some ⟨level, c.width⟩ }

/-! ## The ends of services -/

/-- The end of SUPPLY_ON (R151). -/
def endSupplyOn (h : HeadId) (sv : Service) (e : ServiceEnd) (s : State) : State :=
  match e with
  | .reply .good _ => (s.setSupply h .on).answerService sv .ok [SupplyState.on.code]
  | .reply .trip _ =>
    ((s.setSupply h .fault).raiseFlag h HeadFlag.supplyTrip).answerService sv .ok [SupplyState.fault.code]
  | .reply .refused _ => (s.setSupply h .fault).answerService sv .noAnswer [SupplyState.fault.code]
  | .timeout => (s.setSupply h .fault).answerService sv .noAnswer [SupplyState.fault.code]

/-- The end of SUPPLY_OFF (R151). -/
def endSupplyOff (h : HeadId) (sv : Service) (e : ServiceEnd) (s : State) : State :=
  match e with
  | .reply _ _ => (s.setSupply h .off).answerService sv .ok [SupplyState.off.code]
  | .timeout => (s.setSupply h .fault).answerService sv .noAnswer [SupplyState.fault.code]

/-- The end of HEAD_READ or HEAD_WRITE; the reply to a read carries the value (R150). -/
def endAccess (sv : Service) (e : ServiceEnd) (isRead : Bool) (s : State) : State :=
  match e with
  | .reply .refused _ => s.answerService sv .badValue []
  | .reply _ value => s.answerService sv .ok (if isRead then be16 value else [])
  | .timeout => s.answerService sv .noAnswer []

/-- HEAD_SLEEP ends well: an IDLE head becomes STANDBY; a head that queued in the meantime is woken at once (R153). -/
def endSleepGood (h : HeadId) (sv : Service) (s : State) : State :=
  match (s.head h).state with
  | .queued => (s.issueService h (.headWake false) .internal).answerService sv .conflict []
  | .idle => ((s.setHeadState h .standby).pauseFilter h).answerService sv .ok []
  | _ => s.answerService sv .ok []

/-- The end of HEAD_SLEEP; TRIP ends it as GOOD does (R153). -/
def endSleep (h : HeadId) (sv : Service) (e : ServiceEnd) (s : State) : State :=
  match e with
  | .reply .refused _ => s.answerService sv .noAnswer []
  | .timeout => s.answerService sv .noAnswer []
  | .reply _ _ => s.endSleepGood h sv

/-- HEAD_WAKE ends well: a WAKING head becomes IDLE and, with the queue mark, joins with its default slot when that
is LOADED now; a head that is not WAKING is left as it is (R154, R153). -/
def endWakeGood (h : HeadId) (sv : Service) (mark : Bool) (s : State) : State :=
  let t :=
    if (s.head h).state = .waking then
      let u := s.setHeadState h .idle
      if mark then u.joinDefault h else u
    else s
  t.answerService sv .ok []

/-- HEAD_WAKE fails: a WAKING head becomes STANDBY, and WAKE_FAIL is set (R154, R153). -/
def endWakeBad (h : HeadId) (sv : Service) (s : State) : State :=
  let t := if (s.head h).state = .waking then (s.setHeadState h .standby).pauseFilter h else s
  (t.raiseFlag h HeadFlag.wakeFail).answerService sv .noAnswer []

/-- The end of HEAD_WAKE; TRIP ends it as GOOD does (R154). -/
def endWake (h : HeadId) (sv : Service) (mark : Bool) (e : ServiceEnd) (s : State) : State :=
  match e with
  | .reply .refused _ => s.endWakeBad h sv
  | .timeout => s.endWakeBad h sv
  | .reply _ _ => s.endWakeGood h sv mark

/-- A service ends: the slot is free, the issuing rule applies the result, and a pending wake is issued in the same
step (R149). -/
def endService (h : HeadId) (sv : Service) (e : ServiceEnd) (s : State) : State :=
  let t := s.onHead h fun c => { c with slot := none }
  let u :=
    match sv.op with
    | .supplyOn => t.endSupplyOn h sv e
    | .supplyOff => t.endSupplyOff h sv e
    | .headRead _ => t.endAccess sv e true
    | .headWrite _ _ => t.endAccess sv e false
    | .headSleep => t.endSleep h sv e
    | .headWake mark => t.endWake h sv mark e
  u.issuePendingWake h

/-- The service in the slot is ended without its result: by loss of the link or by HEAD_RESET; a pending wake
becomes absent (R146, R160). -/
def clearSlot (h : HeadId) (s : State) : State := s.onHead h fun c => { c with slot := none, pendingWake := none }

/-- The reply to the host request of a service so ended, made on the state after the step (R149, log 14). -/
def answerCancelled (h : HeadId) (sv : Option Service) (st : Status) (s : State) : State :=
  match sv with
  | none => s
  | some v => s.answerService v st (s.lateFields h v.op)

/-! ## The link -/

/-- The effect of a lost or disabled link on the head, by head state (R146). -/
def headOffLink (h : HeadId) (s : State) : State :=
  match (s.head h).state with
  | .offline => s
  | .standby => (s.setHeadState h .offline).resumeFilter h
  | .idle => s.setHeadState h .offline
  | .waking => s.setHeadState h .offline
  | .queued => s.withdraw h .offline
  | .inRun => s.dropHead h .link
  | .analysis => s
  | .binWait => s

/-- What a lost or disabled link does, whatever the head state: supply OFF, service ended with NO_ANSWER, pending
wake absent; the start filter goes on (R146). -/
def linkDown (h : HeadId) (s : State) : State :=
  let sv := (s.head h).slot
  (((s.setSupply h .off).clearSlot h).answerCancelled h sv .noAnswer).headOffLink h

/-- The link changes state, and LINK_CHANGE is set (R145). -/
def setLink (h : HeadId) (x : LinkState) (s : State) : State :=
  (s.onHead h fun c => { c with link := x }).raiseFlag h HeadFlag.linkChange

/-- The link becomes LOST: the re-seek timer is set (R145) and R146 applies. -/
def loseLink (h : HeadId) (s : State) : State :=
  ((s.setLink h .lost).onHead h fun c => { c with reseek := true }).linkDown h

/-- The link becomes LOCKED: the miss run is 0, and an OFFLINE head becomes IDLE (R144, R147). -/
def lockLink (h : HeadId) (s : State) : State :=
  let t := (s.setLink h .locked).onHead h fun c => { c with missRun := 0 }
  if (s.head h).state = .offline then t.setHeadState h .idle else t

/-- A placed alignment mark; a frame may begin after it (R144, R145, R187). -/
def placedMark (h : HeadId) (s : State) : State :=
  match (s.head h).link with
  | .seeking =>
    let t := s.onHead h fun c => { c with markRun := c.markRun + 1, awaitMark := false }
    if 4 ≤ (s.head h).markRun + 1 then t.lockLink h else t
  | .locked => s.onHead h fun c => { c with missRun := 0, awaitMark := false }
  | _ => s

/-- A misplaced alignment mark at a position (R144, R145). A mark at the aligner position is a placed mark, and
a frame may begin after any mark (R187). -/
def misplacedMark (h : HeadId) (p : Fin 16) (s : State) : State :=
  if p = (s.head h).aligner then s.placedMark h
  else
    match (s.head h).link with
    | .seeking =>
      match (s.head h).alignMode with
      | .mark => s.onHead h fun c => { c with aligner := p, markRun := 1, awaitMark := false }
      | .manual => s.onHead h fun c => { c with markRun := 0, awaitMark := false }
    | .locked =>
      let t := s.onHead h fun c => { c with missRun := c.missRun + 1, awaitMark := false }
      if 4 ≤ (s.head h).missRun + 1 then t.loseLink h else t
    | _ => s

/-- Loss of signal (R144, R145). -/
def lossOfSignal (h : HeadId) (s : State) : State :=
  match (s.head h).link with
  | .seeking => s.onHead h fun c => { c with markRun := 0 }
  | .locked => if (s.head h).losDetect then s.loseLink h else s
  | _ => s

end State

end Sys2Proof.Machine
end

