-- ==== Sys2Proof/Machine/BinOps.lean ====
section
/-!
DEFINITION. The shared operations of a Bin Port: clock formats (R163), the bin frame (R164), its load (R165), the
shifting (R166), delivery and withdrawal (R167, R169, R170).
-/

namespace Sys2Proof.Machine

/-- The level at which BCLK rests in a format (R163). -/
def bclkIdle (format : Fin 4) : LineLevel := if format.val < 2 then .low else .high

/-- The level of BDATA while no frame is presented (R163). -/
def bdataIdle (format : Fin 4) : LineLevel := if format.val < 2 then .low else .high

/-- BDATA changes on the leading edge in formats 0 and 2, on the trailing edge in formats 1 and 3 (R163). -/
def changesOnLead (format : Fin 4) : Bool := format.val % 2 == 0

/-- Bit `k` of a frame, from bit 1, the most significant bit of byte 0 (R163). -/
def frameBit (frame : List Byte) (k : Nat) : LineLevel :=
  if ((frame[(k - 1) / 8]?).getD 0).getMsbD ((k - 1) % 8) then .high else .low

/-- EOT is active exactly while the frame is present (R161). -/
def BinPort.eot (b : BinPort) : Bool := b.frame.isSome

/-- BRDY is active exactly while the frame is present (R161). -/
def BinPort.brdy (b : BinPort) : Bool := b.frame.isSome

/-- The Bin Port without a frame, its configuration kept (R167, R169, R170). -/
def BinPort.withdrawn (b : BinPort) : BinPort :=
  { b with frame := none, position := 0, stale := .stopped, bdata := bdataIdle b.format, leadTaken := false }

/-- The Bin Port with a frame just loaded (R165, R163). -/
def BinPort.loaded (frame : List Byte) (b : BinPort) : BinPort :=
  { b with frame := some frame, position := 0, stale := if b.timeout = 0 then .stopped else .running,
           bdata := if changesOnLead b.format then bdataIdle b.format else frameBit frame 1, leadTaken := false }

/-- The leading edge of a cycle, taken with the frame present (R163). -/
def BinPort.lead (frame : List Byte) (b : BinPort) : BinPort :=
  { b with leadTaken := true, bdata := if changesOnLead b.format then frameBit frame (b.position + 1) else b.bdata }

/-- The trailing edge that completes a cycle (R163, R166). -/
def BinPort.complete (frame : List Byte) (b : BinPort) : BinPort :=
  { b with leadTaken := false, position := b.position + 1,
           bdata := if changesOnLead b.format then b.bdata
                    else if b.position + 1 < Config.frameBits then frameBit frame (b.position + 2)
                    else bdataIdle b.format }

/-- The code of a site: the Outcome Map entry of a RESOLVED site, the absent code otherwise (R164). -/
def siteCode (plan : Plan) (c : SiteContext) : BitVec 4 :=
  match c.outcome with
  | some o => if c.state = .resolved then plan.outcomeMap[o.index] else plan.absentCode
  | none => plan.absentCode

/-- The bin frame: low 8 bits of the run number, head, 32 codes from site 31 down, check byte (R164, 11.6). -/
def binFrame (h : HeadId) (plan : Plan) (runNumber : Half) (sites : Vector SiteContext 32) : List Byte :=
  let codes := (List.range 16).map fun i =>
    siteCode plan (sites.toList[31 - 2 * i]?.getD (.blank .off)) ++
      siteCode plan (sites.toList[30 - 2 * i]?.getD (.blank .off))
  let bytes := [runNumber.extractLsb' 0 8, byteOf h.val] ++ codes
  bytes ++ [xorBytes bytes]

namespace State

/-- The frame is built and loaded, and the head becomes BIN_WAIT (R164, R165). -/
def loadFrame (h : HeadId) (s : State) : State :=
  match s.sites[h].toList.findSome? fun c => c.entry with
  | none => s
  | some e =>
    match s.planAt e.slot with
    | none => s
    | some p => (s.onBin h (BinPort.loaded (binFrame h p e.runNumber s.sites[h]))).setHeadState h .binWait

/-- The head state when it leaves BIN_WAIT: IDLE with its link LOCKED, OFFLINE otherwise (R167). -/
def restState (h : HeadId) (s : State) : HeadState := if (s.head h).link = .locked then .idle else .offline

/-- The frame leaves the port by delivery or BIN_RELEASE: frame absent, a flag set, sites released, plan use
decremented, head IDLE or OFFLINE (R167, R169). -/
def leaveBinWait (h : HeadId) (flag : BitVec 10) (s : State) : State :=
  ((((s.onBin h BinPort.withdrawn).raiseFlag h flag).releaseSites h).dropUse (s.siteSlot h)).setHeadState h
    (s.restState h)

/-- The delivery of the frame (R167). -/
def deliver (h : HeadId) (s : State) : State := s.leaveBinWait h HeadFlag.binDelivered

/-- The trailing edge of a cycle whose leading edge was taken with the frame present: it completes the cycle, and
the 152nd cycle delivers the frame (R163, R167). -/
def trailingEdge (h : HeadId) (frame : List Byte) (s : State) : State :=
  let t := s.onBin h (BinPort.complete frame)
  if (s.bin h).position + 1 = Config.frameBits then t.deliver h else t

/-- An edge of BCLK to a level (R163, R166). -/
def bclkTo (h : HeadId) (level : LineLevel) (s : State) : State :=
  if s.lines[h].bclk = level then s
  else
    let t := s.onLines h fun l => { l with bclk := level }
    match (s.bin h).frame with
    | none => t
    | some frame =>
      if level ≠ bclkIdle (s.bin h).format then t.onBin h (BinPort.lead frame)
      else if (s.bin h).leadTaken then t.trailingEdge h frame
      else t

end State

end Sys2Proof.Machine
end

