-- ==== Sys2Proof/Machine/Engine.lean ====
section
/-!
DEFINITION. The analysis engine (chapter 4): flag outcomes (R68), the two phases of allocation and the backtrack
(R69 to R72), the budget (R73), the ends of a site (R74 to R77) and of a job (R79), and one move of the engine (R66,
log 13).
-/

namespace Sys2Proof.Machine

/-! ## The region under work (R69) -/

/-- The ANALYSE regions of a plan, in ascending region index (R69). -/
def Plan.analyseRegions (p : Plan) : List Nat :=
  (List.range p.regions.length).filter fun i => (p.regions[i]?).map Region.policy == some .analyse

/-- The cells of a site and region: every CELL entry of them in the Fail Table (R69). -/
def FailTable.cells (h : HeadId) (i : SiteId) (region : Nat) (t : FailTable) : List (Half × Half) :=
  t.filterMap fun x =>
    if x.2.ofRegion h i region then
      match x.2.key with
      | .cell r c => some (r, c)
      | _ => none
    else none

/-- The table lines of a site and region, in ascending entry index (R74, part 1). -/
def FailTable.lines (h : HeadId) (i : SiteId) (region : Nat) (t : FailTable) : List RepairLine :=
  t.filterMap fun x =>
    if x.2.ofRegion h i region then
      match x.2.key with
      | .cell _ _ => none
      | .rowLine r => some ⟨region, .row r⟩
      | .colLine c => some ⟨region, .col c⟩
    else none

/-- A line covers a cell: it names its row as ROW or its column as COL (R69). -/
def Line.covers (cell : Half × Half) : Line → Bool
  | .row r => r == cell.1
  | .col c => c == cell.2

/-- The uncovered cells, given the working lines and the choices on the stack (R69). -/
def uncovered (lines : List Line) (stack : List Choice) (cells : List (Half × Half)) : List (Half × Half) :=
  cells.filter fun cell => !(lines.any (Line.covers cell) || stack.any fun e => e.line.covers cell)

/-- The order of the uncovered cells: by row and, within a row, by column (R71). -/
def cellBefore (a b : Half × Half) : Bool := decide (a.1 < b.1) || (a.1 == b.1 && decide (a.2 < b.2))

/-- The first cell in the order of R71. -/
def firstCell : List (Half × Half) → Option (Half × Half)
  | [] => none
  | cell :: rest =>
    match firstCell rest with
    | none => some cell
    | some d => if cellBefore d cell then some d else some cell

/-- The lowest address that occurs more than `limit` times (R70). -/
def lowestOver (limit : Nat) (addresses : List Half) : Option Half :=
  (addresses.filter fun a => decide (limit < addresses.count a)).foldl
    (fun best a =>
      match best with
      | none => some a
      | some b => some (if a < b then a else b)) none

/-! ## The next move -/

/-- What the engine does next with a site: a costed move from one working state to the next, the finding that the
site is unrepairable, reached at a cost, or the solving of the last region. `before` is the state that the budget
test of R73 leaves when it cannot pay (R76). -/
inductive Decision where
  | move (cost : Nat) (before after : Work)
  | unrepairable (cost : Nat) (before : Work)
  | solved (before : Work)
  deriving DecidableEq, Repr

/-- The next choice of CLOSURE; none when CLOSURE is complete (R70, R75). -/
def closureMove (cells : List (Half × Half)) (w : Work) : Option Decision :=
  let bare := uncovered w.lines w.stack cells
  match lowestOver w.spares.columns (bare.map Prod.fst) with
  | some r =>
    if w.spares.rows = 0 then some (.unrepairable 0 w)
    else some (.move 1 w { w with lines := w.lines ++ [.row r],
                                  spares := { w.spares with rows := w.spares.rows - 1 } })
  | none =>
    match lowestOver w.spares.rows (bare.map Prod.snd) with
    | some c =>
      if w.spares.columns = 0 then some (.unrepairable 0 w)
      else some (.move 1 w { w with lines := w.lines ++ [.col c],
                                    spares := { w.spares with columns := w.spares.columns - 1 } })
    | none => none

/-- A backtrack from a stack (top first), with the spares held and the pops made so far: its cost, and the stack and
spares it ends with when an alternative is pushed; none when the stack is emptied (R72). `column rest` is the column
of the first uncovered cell when the stack is `rest`. -/
def unwind (column : List Choice → Half) : List Choice → Spares → Nat → Nat × Option (List Choice × Spares)
  | [], _, pops => (pops, none)
  | top :: rest, sp, pops =>
    match top.line with
    | .row _ =>
      let freed : Spares := { sp with rows := sp.rows + 1 }
      if !top.tried && decide (0 < freed.columns) then
        (pops + 2, some (⟨.col (column rest), true⟩ :: rest, { freed with columns := freed.columns - 1 }))
      else unwind column rest freed (pops + 1)
    | .col _ => unwind column rest { sp with columns := sp.columns + 1 } (pops + 1)

/-- The column of the first uncovered cell when the stack is `stack`; there is one wherever R72 asks for it. -/
def columnUnder (cells : List (Half × Half)) (lines : List Line) (stack : List Choice) : Half :=
  ((firstCell (uncovered lines stack cells)).map Prod.snd).getD 0

/-- The next move of SEARCH; none when no cell is uncovered and the region is solved (R71, R72). -/
def searchMove (cells : List (Half × Half)) (w : Work) : Option Decision :=
  match firstCell (uncovered w.lines w.stack cells) with
  | none => none
  | some (r, c) =>
    if 0 < w.spares.rows then
      some (.move 1 w { w with stack := ⟨.row r, false⟩ :: w.stack,
                               spares := { w.spares with rows := w.spares.rows - 1 } })
    else if 0 < w.spares.columns then
      some (.move 1 w { w with stack := ⟨.col c, true⟩ :: w.stack,
                               spares := { w.spares with columns := w.spares.columns - 1 } })
    else
      match unwind (columnUnder cells w.lines) w.stack w.spares 0 with
      | (cost, none) => some (.unrepairable cost w)
      | (cost, some (stack, spares)) => some (.move cost w { w with stack := stack, spares := spares })

/-- The next move in the region under work; the end of CLOSURE costs nothing and passes to SEARCH. The second part is
the working state when the region is solved (R69 to R71). -/
def regionMove (cells : List (Half × Half)) (w : Work) : Option Decision × Work :=
  match w.phase with
  | .search => (searchMove cells w, w)
  | .closure =>
    match closureMove cells w with
    | some d => (some d, w)
    | none => (searchMove cells { w with phase := .search }, { w with phase := .search })

/-- The working state at the start of a region: the site's spares left for it, no line and no choice (R69). -/
def startRegion (spares : List Spares) (region : Nat) (solved : List RepairLine) : Work :=
  { region := region, phase := .closure, lines := [], spares := (spares[region]?).getD ⟨0, 0⟩, stack := [],
    solved := solved }

/-- The lines of a region when it is solved: the working lines in the order added, then the choices from the bottom
of the stack to the top (R74, parts 2 and 3). -/
def Work.regionLines (w : Work) : List RepairLine :=
  (w.lines ++ (w.stack.reverse.map Choice.line)).map fun l => ⟨w.region, l⟩

/-- The next move of a site whose engine works on `w`, with the ANALYSE regions after it: a solved region passes to
the next one at no cost (R69). -/
def nextMove (cells : Nat → List (Half × Half)) (spares : List Spares) : List Nat → Work → Decision
  | [], w =>
    match regionMove (cells w.region) w with
    | (some d, _) => d
    | (none, v) => .solved v
  | r :: rest, w =>
    match regionMove (cells w.region) w with
    | (some d, _) => d
    | (none, v) => nextMove cells spares rest (startRegion spares r (v.solved ++ v.regionLines))

/-! ## Sites -/

/-- The outcome that the flags or the lack of entries decide, by the first condition that holds (R68). -/
def SiteContext.flagOutcome (c : SiteContext) : Option SiteOutcome :=
  if c.aborted.isSome then some .aborted
  else if c.captureLost then some .captureLost
  else if c.expired then some .matchExpired
  else if c.strictFail then some .strictFail
  else if c.noRepair then some .noRepair
  else if c.entriesHeld = 0 then some .pass
  else none

/-- A site becomes RESOLVED with an outcome, and its list when REPAIRED (R57). -/
def SiteContext.resolve (o : SiteOutcome) (list : Option (List RepairLine)) (c : SiteContext) : SiteContext :=
  { c with state := .resolved, outcome := some o, repairList := list, context := none }

namespace State

/-- The engine's site is finished with an outcome; the job goes on to the next site (R67). -/
def resolveSite (h : HeadId) (i : SiteId) (used : Nat) (o : SiteOutcome) (list : Option (List RepairLine))
    (s : State) : State :=
  (s.onSite h i (SiteContext.resolve o list)).onAlloc fun a =>
    { a with engine := a.engine.map fun e =>
        { e with used := used, resolved := e.resolved + 1, site := i.val + 1, work := none } }

/-- The ANALYSE regions of the site's plan (R69). -/
def siteRegions (s : State) (c : SiteContext) : List Nat := ((s.sitePlan c).map Plan.analyseRegions).getD []

/-- The repair list: region by region, the table lines, then the working lines and choices (R74). -/
def repairList (s : State) (h : HeadId) (i : SiteId) (solved : List RepairLine) : List RepairLine :=
  (s.siteRegions (s.site h i)).flatMap fun r =>
    s.capture.table.lines h i r ++ solved.filter fun l => l.region == r

/-- The engine goes on with a working state, the steps used being `used`. -/
def keepWork (i : SiteId) (used : Nat) (w : Work) (s : State) : State :=
  s.onAlloc fun a =>
    { a with engine := a.engine.map fun e => { e with used := used, site := i.val, work := some w } }

/-! ## Job end -/

/-- The enabled sites of the head that are not RESOLVED: those INCOMPLETE or ENDED (R79). -/
def incompleteCount (h : HeadId) (s : State) : Nat :=
  (s.sites[h].toList.filter fun c => c.state == .incomplete || c.state == .ended).length

/-- The reply to a HOST job, or the notice of an AUTO job when analysis notices are enabled (R79). -/
def reportJob (job : Job) (resolved incomplete used : Nat) (s : State) : State :=
  match job.origin with
  | .host tag => s.answer Kind.analyse tag .ok ([byteOf resolved, byteOf incomplete] ++ be16OfNat used)
  | .auto =>
    if s.port.config.analysisNotices then s.queueNotice (.analysisDone job.head resolved incomplete used) else s

/-- The end of the job in service: it leaves the queue, the bin frame is loaded when no site is left, and the job is
reported (R79, R165). -/
def endJob (job : Job) (e : Engine) (s : State) : State :=
  let n := s.incompleteCount job.head
  let t := s.onAlloc fun a => { jobs := a.jobs.tail, engine := none }
  let u := if n = 0 then t.loadFrame job.head else t
  u.reportJob job e.resolved n e.used

/-- The job goes on with no steps left, whatever it has used (R77). -/
def spendAll (s : State) : State := s.onAlloc fun a => { a with engine := a.engine.map fun e => { e with spent := true } }

/-- The steps left to the job (R73, R77). -/
def stepsLeft (job : Job) (e : Engine) : Nat := if e.spent then 0 else job.budget.toNat - e.used

/-- The budget is exhausted on a site: UNRESOLVED with force on, and the job goes on with no steps left (R77);
INCOMPLETE with force off, the working state saved, and the job ends in the same step (R76). -/
def exhausted (job : Job) (e : Engine) (i : SiteId) (before : Work) (s : State) : State :=
  if job.force then (s.resolveSite job.head i e.used .unresolved none).spendAll
  else
    (s.onSite job.head i fun c => { c with state := .incomplete, context := some before }).endJob job e

/-- The next move of the engine on a site that no flag decides, tested against the budget (R73). -/
def allocate (job : Job) (e : Engine) (i : SiteId) (w : Work) (s : State) : State :=
  let c := s.site job.head i
  let spares := (c.entry.map RunEntry.spares).getD []
  let later := (s.siteRegions c).filter fun r => decide (w.region < r)
  let left := stepsLeft job e
  match nextMove (fun r => s.capture.table.cells job.head i r) spares later w with
  | .move cost before after =>
    if cost ≤ left then s.keepWork i (e.used + cost) after else s.exhausted job e i before
  | .unrepairable cost before =>
    if cost ≤ left then s.resolveSite job.head i (e.used + cost) .noRepair none else s.exhausted job e i before
  | .solved v =>
    s.resolveSite job.head i e.used .repaired (some (s.repairList job.head i (v.solved ++ v.regionLines)))

/-- The engine takes a site: flag outcomes first, then allocation from its context or from its first ANALYSE region
(R67, R68, R69, R78). -/
def takeSite (job : Job) (e : Engine) (i : SiteId) (s : State) : State :=
  let c := s.site job.head i
  match c.flagOutcome with
  | some o => s.resolveSite job.head i e.used o none
  | none =>
    match c.context with
    | some w => s.allocate job e i w
    | none =>
      match s.siteRegions c with
      | r :: _ => s.allocate job e i (startRegion ((c.entry.map RunEntry.spares).getD []) r [])
      | [] => s.resolveSite job.head i e.used .repaired (some [])

/-- The next site the job works on, at the engine's place or after it: ENDED or INCOMPLETE (R67). -/
def nextSite (s : State) (h : HeadId) (place : Nat) : Option SiteId :=
  (List.finRange 32).find? fun i =>
    decide (place ≤ i.val) && ((s.site h i).state == .ended || (s.site h i).state == .incomplete)

/-- One move of the job in service (R66, log 13). -/
def moveJob (job : Job) (e : Engine) (s : State) : State :=
  match s.nextSite job.head e.site with
  | none => s.endJob job e
  | some i =>
    match e.work with
    | some w => s.allocate job e i w
    | none => s.takeSite job e i

/-- One move of the engine; an idle engine makes none (R66). -/
def engineMove (s : State) : State :=
  match s.alloc.engine, s.alloc.jobs with
  | some e, job :: _ => s.moveJob job e
  | _, _ => s

/-- The end of a step that may leave a job for the idle engine (R66) and a frame for the transmitter (R177). -/
def serve (s : State) : State := s.startEngine.emit

end State

end Sys2Proof.Machine
end

