-- ==== Sys2Proof/Machine/Capture.lean ====
section
/-!
DEFINITION. The Capture Unit (chapter 1): taking a fail word (R5 to R19), the watch check (R22), and the meanings of
FAIL, WATCH_SET, WATCH_READ and TABLE_READ.
-/

namespace Sys2Proof.Machine

/-- The outcome of a command: every command of this part has a next state. -/
abbrev Result := Host.Outcome State Fault Refusal

/-- A fail word whose fields are in range, with the head of its link (section 1.2). -/
structure FailWord where
  head : HeadId
  site : SiteId
  bank : Byte
  row : Half
  column : Half
  deriving DecidableEq, Repr

/-! ## The watch entries that a fail word meets -/

/-- A valid watch entry matches the fail word (R22). -/
def Watch.meets (w : FailWord) (e : Watch) : Bool :=
  e.valid && e.head == w.head && (e.site == none || e.site == some w.site) && e.bank == w.bank && e.row == w.row &&
    (e.column == none || e.column == some w.column)

/-- The set of matching entry indices (R22). -/
def matchingWatches (w : FailWord) (s : State) : BitVec 4 := setOfFin 4 fun k => s.capture.watches[k].meets w

/-- A matching entry has its hold flag on (R22). -/
def holdingWatch (w : FailWord) (s : State) : Bool :=
  (List.finRange 4).any fun k => s.capture.watches[k].meets w && s.capture.watches[k].hold

/-! ## Handing a raise on -/

/-- The raise of a cause for a fail word, with its region when the cause hands it over, in a run (R128, R133). -/
def FailWord.raise (w : FailWord) (cause : FailCause) (region : Option Nat) (follows : Bool) (runNumber : Half) :
    HandedRaise :=
  ⟨runNumber, cause, w.head, w.site, region, w.row, w.column, follows⟩

/-- The Capture Unit hands a raise of a fail word to the Run Controller; the second one of a word that raises WATCH
follows the WATCH (R19, R133). -/
def State.handRaise (w : FailWord) (cause : FailCause) (region : Option Nat) (s : State) : State :=
  s.onCapture fun c =>
    { c with raises := c.raises ++ [w.raise cause region (cause != .watch && holdingWatch w s) s.run.runNumber] }

/-! ## The watch check -/

/-- Each matching entry's hit flag is set (R22). -/
def CaptureUnit.markHits (w : FailWord) (c : CaptureUnit) : CaptureUnit :=
  { c with watches := Vector.ofFn fun k =>
      if c.watches[k].meets w then { c.watches[k] with hit := true } else c.watches[k] }

/-- The watch check: hit flags, one notice, and one raise of WATCH (R22). -/
def watchCheck (w : FailWord) (s : State) : State :=
  let set := matchingWatches w s
  if set = 0 then s
  else
    let t := s.onCapture (CaptureUnit.markHits w)
    let u := if s.port.config.watchNotices then t.queueNotice (.watchHit w.head w.site w.bank w.row w.column set) else t
    if holdingWatch w s then u.handRaise w .watch none else u

/-! ## The region lookup -/

/-- The region contains the address of the fail word (R7). -/
def Region.holds (w : FailWord) (r : Region) : Bool :=
  r.bank == w.bank && decide (r.rowBase ≤ w.row) && decide (w.row ≤ r.rowLimit) &&
    decide (r.columnBase ≤ w.column) && decide (w.column ≤ r.columnLimit)

/-- The region descriptor of lowest index that holds the address, with its index, counting from `k` (R7). -/
def findRegion (w : FailWord) : Nat → List Region → Option (Nat × Region)
  | _, [] => none
  | k, r :: rest => if r.holds w then some (k, r) else findRegion w (k + 1) rest

/-! ## The ANALYSE path -/

/-- The spares left to the site for a region (R49). -/
def SiteContext.sparesOf (c : SiteContext) (region : Nat) : Spares :=
  ((c.entry.bind fun e => e.spares[region]?)).getD ⟨0, 0⟩

/-- Change the spares left to the site for a region (R49). -/
def SiteContext.onSpares (region : Nat) (f : Spares → Spares) (c : SiteContext) : SiteContext :=
  { c with entry := c.entry.map fun e => { e with spares := e.spares.set region (f (c.sparesOf region)) } }

/-- A spare row is taken by a line (R12). -/
def Spares.takeRow (p : Spares) : Spares := { p with rows := p.rows - 1 }
/-- A spare column is taken by a line (R13). -/
def Spares.takeColumn (p : Spares) : Spares := { p with columns := p.columns - 1 }

namespace State

/-- The hits of an entry counted up to a maximum (R10, R11). -/
def addHit (limit : Nat) (x : Nat × Entry) (s : State) : State :=
  s.onCapture fun c => { c with table := c.table.setHits x.1 (satInc limit x.2.hits) }

/-- A new entry of the site, under the exhaustion check; `paid` is what the entry takes from the site's spares
(R14, R16 to R18). -/
def newEntry (w : FailWord) (region : Nat) (key : EntryKey) (paid : SiteContext → SiteContext) (s : State) : State :=
  let c := s.site w.head w.site
  if some c.entriesHeld = (s.sitePlan c).map Plan.quota then s.handRaise w .quota (some region)
  else
    match s.capture.table.lowestFree with
    | none => s.handRaise w .tableFull (some region)
    | some k =>
      (s.onCapture fun u => { u with table := u.table.write k ⟨w.head, w.site, region, key, 1⟩ }).onSite w.head w.site
        fun c => paid { c with entriesHeld := c.entriesHeld + 1 }

/-- A promotion: the cells `covered` of the site and region are freed and the line stands in the lowest of their
entries; a promotion that frees no cell needs a new entry (R12 to R14). -/
def promote (w : FailWord) (region : Nat) (line : EntryKey) (covered : EntryKey → Bool) (take : Spares → Spares)
    (s : State) : State :=
  let p : Entry → Bool := fun e => e.ofRegion w.head w.site region && covered e.key
  let cells := s.capture.table.filter fun x => p x.2
  match cells with
  | [] => s.newEntry w region line (SiteContext.onSpares region take)
  | (k, _) :: _ =>
    let hits := Nat.min 255 ((cells.map fun x => x.2.hits).sum + 1)
    (s.onCapture fun u => { u with table := (u.table.free p).write k ⟨w.head, w.site, region, line, hits⟩ }).onSite
      w.head w.site fun c =>
        SiteContext.onSpares region take { c with entriesHeld := c.entriesHeld - (cells.length - 1) }

/-- The site is marked no_repair and all its entries are freed (R15). -/
def markNoRepair (w : FailWord) (s : State) : State :=
  (s.onCapture fun u => { u with table := u.table.free (Entry.ofSite w.head w.site) }).onSite w.head w.site fun c =>
    { c with noRepair := true, entriesHeld := 0 }

/-- The number of cells of the site and region that a line would cover, with the new fail (R12, R13). -/
def lineCount (w : FailWord) (region : Nat) (covered : EntryKey → Bool) (s : State) : Nat :=
  (s.capture.table.filter fun x => x.2.ofRegion w.head w.site region && covered x.2.key).length + 1

/-- The check of the fail's column, then learning (R13, R16). -/
def columnStep (w : FailWord) (region : Nat) (s : State) : State :=
  let spares := (s.site w.head w.site).sparesOf region
  if s.lineCount w region (EntryKey.cellInColumn w.column) ≤ spares.rows then
    s.newEntry w region (.cell w.row w.column) id
  else if spares.columns = 0 then s.markNoRepair w
  else s.promote w region (.colLine w.column) (EntryKey.cellInColumn w.column) Spares.takeColumn

/-- The check of the fail's row (R12). -/
def rowStep (w : FailWord) (region : Nat) (s : State) : State :=
  let spares := (s.site w.head w.site).sparesOf region
  if s.lineCount w region (EntryKey.cellInRow w.row) ≤ spares.columns then s.columnStep w region
  else if spares.rows = 0 then s.markNoRepair w
  else s.promote w region (.rowLine w.row) (EntryKey.cellInRow w.row) Spares.takeRow

/-- The ANALYSE path: a covering row line, a covering column line, the same cell, or the promotion checks (R10 to
R13). -/
def analysePath (w : FailWord) (region : Nat) (s : State) : State :=
  let find := fun key => s.capture.table.lookup w.head w.site region key
  match find (.rowLine w.row) with
  | some x => s.addHit 255 x
  | none =>
    match find (.colLine w.column) with
    | some x => s.addHit 255 x
    | none =>
      match find (.cell w.row w.column) with
      | some x => s.addHit 15 x
      | none => s.rowStep w region

/-! ## The fail word -/

/-- A fail word in its region, by the region's policy (R8, R9). -/
def failInRegion (w : FailWord) (region : Nat) (policy : Policy) (s : State) : State :=
  match policy with
  | .ignore => s
  | .strict => s.onSite w.head w.site fun c => { c with strictFail := true }
  | .analyse =>
    let c := s.site w.head w.site
    if c.noRepair || c.captureLost then s else s.analysePath w region

/-- A fail word in no region (R7). -/
def failUnmapped (w : FailWord) (s : State) : State :=
  (s.onSite w.head w.site fun c => { c with unmappedCount := satInc 255 c.unmappedCount }).handRaise w .unmapped none

/-- The region lookup and what follows it (R7 to R9). -/
def failLookup (w : FailWord) (s : State) : State :=
  match findRegion w 0 (((s.sitePlan (s.site w.head w.site)).map Plan.regions).getD []) with
  | none => s.failUnmapped w
  | some (k, r) => s.failInRegion w k r.policy

/-- A fail word that has passed the checks of R5: fail count, watch check, region lookup (R6). -/
def failTaken (w : FailWord) (s : State) : State :=
  (watchCheck w (s.onSite w.head w.site fun c => { c with failCount := satInc 65535 c.failCount })).failLookup w

/-- The checks of R5 on the range of the fields, the head and the site. -/
def failChecked (h : HeadId) (site bank : Byte) (row column : Half) (s : State) : Option FailWord :=
  match siteOf site with
  | none => none
  | some i =>
    if bank.toNat ≤ 15 ∧ column.toNat ≤ 4095 ∧ (s.head h).state = .inRun ∧ (s.site h i).state = .testing then
      some ⟨h, i, bank, row, column⟩
    else none

/-- A FAIL frame that its Head Manager hands to the Capture Unit (R5). The raises of the word wait for the Run
Controller, or are taken in the same step, behind those that wait already (R133, log 29). -/
def failFrame (h : HeadId) (site bank : Byte) (row column : Half) (waits : Bool) (s : State) : State :=
  match s.failChecked h site bank row column with
  | some w => (if waits then s.failTaken w else (s.failTaken w).takeRaises).emit
  | none => s

/-! ## Requests -/

/-- WATCH_SET (R21). -/
def watchSetRequest (q : Request) (b : WatchBody) (s : State) : State :=
  match watchOf b with
  | none => (s.refuse q .badValue).emit
  | some (k, w) =>
    ((s.onCapture fun c => { c with watches := upd c.watches k fun _ => w }).answerOk q []).emit

/-- The fields of a watch entry after its index, and its hit flag (R186). -/
def watchBytes (w : Watch) : List Byte :=
  [boolByte w.valid, byteOf w.head.val, (w.site.map fun i => byteOf i.val).getD 0xFF#8, w.bank] ++ be16 w.row ++
    be16 (w.column.getD 0xFFFF#16) ++ [boolByte w.hold, boolByte w.hit]

/-- WATCH_READ (R23). -/
def watchReadRequest (q : Request) (index : Byte) (s : State) : State :=
  match indexOf index with
  | none => (s.refuse q .badValue).emit
  | some k => (s.answerOk q (watchBytes s.capture.watches[k])).emit

/-- The entries of a site at or above an index, in ascending index order (R24). -/
def entriesFrom (h : HeadId) (i : SiteId) (start : Nat) (s : State) : List (Nat × Entry) :=
  s.capture.table.filter fun x => decide (start ≤ x.1) && x.2.ofSite h i

/-- The fields of a TABLE_READ reply (11.3, R24). -/
def tableBytes (h : HeadId) (i : SiteId) (start count : Nat) (s : State) : List Byte :=
  let all := s.entriesFrom h i start
  let sent := all.take count
  let next := ((all.drop count).head?.map Prod.fst).getD Config.tableSize
  be16OfNat (s.site h i).entriesHeld ++ be16OfNat next ++ [byteOf sent.length] ++ sent.flatMap entryBytes

/-- TABLE_READ (R24). -/
def tableReadRequest (q : Request) (head site : Byte) (start : Half) (count : Byte) (s : State) : State :=
  match headOf head, siteOf site with
  | some h, some i =>
    if start.toNat ≤ 4095 ∧ 1 ≤ count.toNat ∧ count.toNat ≤ 96 then
      (s.answerOk q (s.tableBytes h i start.toNat count.toNat)).emit
    else (s.refuse q .badValue).emit
  | _, _ => (s.refuse q .badValue).emit

end State

/-! ## Meanings -/

/-- FAIL: frames are decoded by R148 and R187, and the Capture Unit takes a fail word by R5. -/
def execFail (link : FailLink) (site bank : Byte) (row column : Half) (s : State) : Result :=
  .next (if s.decodes link.head then s.failFrame link.head site bank row column link.waits else s)

/-- WATCH_SET (R21). -/
def execWatchSet (tag : Byte) (b : WatchBody) (s : State) : Result :=
  let q : Request := ⟨tag, Kind.watchSet, watchBodyWire b⟩
  .next (takeRequest q (State.watchSetRequest q b) s)

/-- WATCH_READ (R23). -/
def execWatchRead (tag index : Byte) (s : State) : Result :=
  let q : Request := ⟨tag, Kind.watchRead, [index]⟩
  .next (takeRequest q (State.watchReadRequest q index) s)

/-- TABLE_READ (R24). -/
def execTableRead (tag head site : Byte) (start : Half) (count : Byte) (s : State) : Result :=
  let q : Request := ⟨tag, Kind.tableRead, [head, site] ++ be16 start ++ [count]⟩
  .next (takeRequest q (State.tableReadRequest q head site start count) s)

end Sys2Proof.Machine
end

