-- ==== Sys2Proof/Machine/Feed.lean ====
section
/-!
DEFINITION. The Feed Link and the Gate Unit (chapters 5 and 6): feed records (R94, R97, R113 to R117), messages of
the source (R93, R95, R96, R102, R107, R188), the run timer's expiries, and the tallies (R99, R118).
-/

namespace Sys2Proof.Machine

/-- A raise with no detail but its cause (R128). -/
def Raise.plain (cause : Cause) : Raise := ⟨cause, none, none, none, none, none, none⟩

namespace State

/-! ## Feed records -/

/-- The tally wait begins: a run state with the timer set to the tally timeout (R92). -/
def startTally (x : RunState) (s : State) : State :=
  s.onRun fun r => { r with state := x, timer := some s.port.config.tallyTimeout.toNat }

/-- A level pushed by a GATE_OPEN: entry set, the TESTING sites of the group heads (R113). -/
def newLevel (limit : Half) (s : State) : GateLevel :=
  { limit := limit.toNat, passCount := 0,
    entry := Vector.ofFn fun h => if s.run.group.getLsbD h.val then s.testing h else 0,
    parked := Vector.replicate 4 0 }

/-- A GATE_OPEN, after its forwarding: a level, or GATE_OVERFLOW with 4 levels held (R113, R114). -/
def openGate (limit : Half) (s : State) : State :=
  if s.gates.levels.length < Config.gateLimit then
    s.onGates fun g => { g with levels := s.newLevel limit :: g.levels }
  else s.raiseException (Raise.plain .gateOverflow)

/-- The close of the innermost phantom level (R116). -/
def closePhantom (s : State) : State :=
  let t := s.forHeads s.run.group fun h => sendHead h (.unpark (4 + s.gates.phantom) 0)
  (t.onGates fun g => { g with phantom := g.phantom - 1 }).sendSource .decideExit

/-- The decision of the top level begins (R115). -/
def beginDecision (s : State) : State :=
  (s.onGates fun g => { g with collected := Vector.replicate 4 none }).startTally .deciding

/-- A GATE_CLOSE, after its forwarding (R115 to R117). -/
def closeGate (s : State) : State :=
  if 0 < s.gates.phantom then s.closePhantom
  else
    match s.gates.levels with
    | [] => s.raiseException (Raise.plain .gateUnderflow)
    | _ :: _ => s.beginDecision

/-- END, after its forwarding (R97). -/
def beginDraining (s : State) : State := (s.onRun fun r => { r with tallied := 0 }).startTally .draining

/-- A record taken in STREAMING: counted, forwarded and handled by kind (R97, R98). -/
def takeRecord (r : FeedRecord) (s : State) : State :=
  let t := (s.onRun fun c => { c with recordCount := c.recordCount + 1 }).forward r
  match r with
  | .block _ => t
  | .gateOpen limit => t.openGate limit
  | .gateClose => t.closeGate
  | .endRecord => t.beginDraining

/-- A record that arrives while HELD: appended, or FEED_OVERRUN with 16 held (R104). -/
def holdRecord (r : FeedRecord) (s : State) : State :=
  if s.run.buffer.length < Config.bufferSize then s.onRun fun c => { c with buffer := c.buffer ++ [r] }
  else s.feedFault .feedOverrun

/-- A well-formed feed record, by run state (R94). -/
def arriveRecord (r : FeedRecord) (s : State) : State :=
  match s.run.state with
  | .none => s.setPartFlag PartFlag.feedFault
  | .starting => s.feedFault .feedFormat
  | .streaming => s.takeRecord r
  | .deciding => s.feedFault .feedFormat
  | .draining => s.feedFault .feedFormat
  | .held => s.holdRecord r
  | .halting => s

/-- An ill-formed message, by run state (R93). -/
def illFormed (s : State) : State :=
  match s.run.state with
  | .none => s.setPartFlag PartFlag.feedFault
  | .halting => s
  | _ => s.feedFault .feedFormat

/-! ## Control messages of the source -/

/-- The run starts (R95, R48). -/
def startRun (s : State) : State :=
  let t := s.forHeads s.run.group fun h u =>
    u.mapSites h fun _ c =>
      match s.runEntry with
      | some e => c.startRun e
      | none => c
  let t := t.onRun fun r => { r with timer := none, state := .streaming }
  match s.run.slot with
  | some slot => t.runNotice (.runStarted s.run.runNumber slot s.run.group)
  | none => t

/-- ACCEPT, taken in STARTING with the run number of the current run (R93, R95). -/
def acceptMessage (n : Half) (s : State) : State :=
  if s.run.state = .starting ∧ s.run.runNumber = n then s.startRun else s

/-- DECLINE, taken in STARTING (R93, R96). -/
def declineMessage (reason : Byte) (s : State) : State :=
  if s.run.state = .starting then s.endWithoutStart (.decline reason) else s

/-- HALTED, taken in HALTING (R93, R102). -/
def haltedMessage (s : State) : State := if s.run.state = .halting then s.abortedEnd else s

/-- The pending FEED_RESET ends, and its request is answered (R107). -/
def endFeedReset (tag : Byte) (ready : Bool) (st : Status) (s : State) : State :=
  (s.onRun fun r => { r with resetPending := none, timer := none, linkReady := ready }).answer Kind.feedReset tag st []

/-- A message from the source in the form it arrives in, well-formed or not; while a FEED_RESET is pending, every
message but RESET_DONE is discarded (R93, R107). -/
def sourceMessage (m : Option SourceInput) (s : State) : State :=
  match s.run.resetPending with
  | some tag =>
    match m with
    | some .resetDone => s.endFeedReset tag true .ok
    | _ => s
  | none =>
    match m with
    | none => s.illFormed
    | some (.accept n) => s.acceptMessage n
    | some (.decline reason) => s.declineMessage reason
    | some (.record r) => s.arriveRecord r
    | some .halted => s.haltedMessage
    | some .resetDone => s

/-! ## The run timer -/

/-- The run timer runs in a state of the run. -/
def timerRunsIn (x : RunState) (s : State) : Bool := s.run.state == x && s.run.timer.isSome

/-- The Feed Link becomes SUSPECT (R106). -/
def suspect (s : State) : State := s.onRun fun r => { r with linkReady := false }

/-- The expiry in STARTING (R96). -/
def acceptExpiry (s : State) : State :=
  if s.timerRunsIn .starting then (s.endWithoutStart .timeout).suspect.settle else s

/-- The expiry in HALTING (R102). -/
def haltExpiry (s : State) : State := if s.timerRunsIn .halting then s.abortedEnd.suspect.settle else s

/-- The expiry with a FEED_RESET pending (R107). -/
def resetExpiry (s : State) : State :=
  match s.run.resetPending with
  | some tag => if s.run.timer.isSome then (s.endFeedReset tag false .noAnswer).emit else s
  | none => s

/-- The expiry in DECIDING or DRAINING: TALLY_LATE with the missing heads (R119, R99). -/
def tallyExpiry (x : RunState) (s : State) : State :=
  if s.timerRunsIn x ∧ s.missingHeads ≠ 0 then
    ((s.onRun fun r => { r with timer := none }).raiseException
      { Raise.plain .tallyLate with missing := some s.missingHeads }).settle
  else s

/-! ## Tallies -/

/-- The pass tally is checked in this run state (R118). -/
def tallyTaken (s : State) : Bool :=
  s.run.state == .deciding || (s.run.state == .held && s.run.returnState == some .deciding)

/-- The four checks of a pass tally (R118). -/
def tallyMatches (h : HeadId) (depth pass : Half) (s : State) : Bool :=
  s.run.group.getLsbD h.val && depth.toNat == s.gates.levels.length &&
    (match s.gates.levels with
     | [] => false
     | top :: _ => pass.toNat == top.passCount + 1) &&
    (s.gates.collected[h]).isNone

/-- A PASS_TALLY frame that its Head Manager hands to the Gate Unit (R118, R120). -/
def passTallyFrame (h : HeadId) (depth pass : Half) (matched : SiteSet) (s : State) : State :=
  if s.tallyTaken && s.tallyMatches h depth pass then
    let t := s.onGates fun g => { g with collected := upd g.collected h fun _ => some matched }
    (if t.run.state = .deciding ∧ t.allCollected then t.makeDecision else t).emit
  else s

/-- The end tally is added to the tally set in this run state (R99). -/
def endTallyTaken (s : State) : Bool :=
  s.run.state == .draining || (s.run.state == .held && s.run.returnState == some .draining)

/-- An END_TALLY frame that its Head Manager hands to the Run Controller (R99, R100). -/
def endTallyFrame (h : HeadId) (s : State) : State :=
  if s.endTallyTaken && s.run.group.getLsbD h.val then
    let t := s.onRun fun r => { r with tallied := r.tallied ||| (1#4 <<< h.val) }
    (if t.run.state = .draining ∧ t.allTallied then t.normalEnd else t).settle
  else s

end State

/-! ## Meanings -/

/-- ACCEPT (R95). -/
def execAccept (n : Half) (s : State) : Result := .next (s.sourceMessage (some (.accept n))).emit

/-- DECLINE (R96). -/
def execDecline (reason : Byte) (s : State) : Result := .next (s.sourceMessage (some (.decline reason))).settle

/-- ACCEPT_TIMEOUT: the run timer expires in STARTING (R96). -/
def execAcceptTimeout (s : State) : Result := .next s.acceptExpiry

/-- BLOCK (R98); a payload of no byte or of more than 1024 is ill-formed (R93). -/
def execBlock (payload : List Byte) (s : State) : Result :=
  .next (s.sourceMessage (if blockFits payload then some (.record (.block payload)) else none)).emit

/-- GATE_OPEN (R113); limit 0 is ill-formed (R93). -/
def execGateOpen (limit : Half) (s : State) : Result :=
  .next (s.sourceMessage (if limit = 0#16 then none else some (.record (.gateOpen limit)))).emit

/-- GATE_CLOSE (R115). -/
def execGateClose (s : State) : Result := .next (s.sourceMessage (some (.record .gateClose))).emit

/-- END (R97). -/
def execEnd (s : State) : Result := .next (s.sourceMessage (some (.record .endRecord))).emit

/-- HALTED (R102). -/
def execHalted (s : State) : Result := .next (s.sourceMessage (some .halted)).settle

/-- RESET_DONE (R107). -/
def execResetDone (s : State) : Result := .next (s.sourceMessage (some .resetDone)).settle

/-- FEED_MESSAGE_ILL_FORMED (R93); bytes that make a well-formed message are that message (log 16). -/
def execFeedMessageIllFormed (bytes : List Byte) (s : State) : Result :=
  .next (s.sourceMessage (sourceInput bytes)).settle

/-- HALT_TIMEOUT: the run timer expires in HALTING (R102). -/
def execHaltTimeout (s : State) : Result := .next s.haltExpiry

/-- FEED_RESET_TIMEOUT: the run timer expires with a reset pending (R107). -/
def execFeedResetTimeout (s : State) : Result := .next s.resetExpiry

/-- TALLY_TIMEOUT_DECIDING (R119). -/
def execTallyTimeoutDeciding (s : State) : Result := .next (s.tallyExpiry .deciding)

/-- TALLY_TIMEOUT_DRAINING (R99). -/
def execTallyTimeoutDraining (s : State) : Result := .next (s.tallyExpiry .draining)

/-- PASS_TALLY: frames are decoded by R148 and R187, and the Gate Unit takes a tally by R118. -/
def execPassTally (h : HeadId) (depth pass : Half) (matched : SiteSet) (s : State) : Result :=
  .next (if s.decodes h then s.passTallyFrame h depth pass matched else s)

/-- END_TALLY: frames are decoded by R148 and R187, and the Run Controller takes a tally by R99. -/
def execEndTally (h : HeadId) (s : State) : Result :=
  .next (if s.decodes h then s.endTallyFrame h else s)

end Sys2Proof.Machine
end

