-- ==== Sys2Proof/Machine/Runs.lean ====
section
/-!
DEFINITION. Requests to the Run Arbiter and the Run Controller (chapters 5 and 7): RUN_REQUEST, RUN_CANCEL,
ARBITER_SET, RUN_ABORT, RUN_DROP_HEAD, RUN_SET_MASK, RESUME, RUN_STATUS, FEED_RESET.
-/

namespace Sys2Proof.Machine

namespace State

/-! ## The Run Arbiter -/

/-- RUN_REQUEST (R84). -/
def runRequestRequest (q : Request) (head slot : Byte) (s : State) : State :=
  match headOf head, slotOf slot with
  | some h, some i =>
    if (s.head h).state ≠ .idle then (s.refuse q .wrongState).emit
    else if (s.planAt i).isNone then (s.refuse q .wrongState).emit
    else ((s.join h i).answerOk q []).settle
  | _, _ => (s.refuse q .badValue).emit

/-- RUN_CANCEL (R86). -/
def runCancelRequest (q : Request) (head : Byte) (s : State) : State :=
  match headOf head with
  | none => (s.refuse q .badValue).emit
  | some h =>
    if (s.head h).state ≠ .queued then (s.refuse q .wrongState).emit
    else ((s.withdraw h .idle).answerOk q []).emit

/-- ARBITER_SET (R88); a value that is neither on nor off is out of range (R185). -/
def arbiterSetRequest (q : Request) (enable : Byte) (s : State) : State :=
  match onOff enable with
  | none => (s.refuse q .badValue).emit
  | some b => ((s.onArbiter fun a => { a with enabled := b }).answerOk q []).settle

/-! ## The Run Controller -/

/-- RUN_ABORT (R103). -/
def runAbortRequest (q : Request) (s : State) : State :=
  if s.run.state = .none then (s.refuse q .wrongState).emit else ((s.abortRun .host).answerOk q []).emit

/-- RUN_DROP_HEAD (R108). -/
def runDropHeadRequest (q : Request) (head : Byte) (s : State) : State :=
  match headOf head with
  | none => (s.refuse q .badValue).emit
  | some h =>
    if (s.head h).state ≠ .inRun then (s.refuse q .wrongState).emit
    else ((s.dropHead h .host).answerOk q []).settle

/-- RUN_SET_MASK (R130). -/
def runSetMaskRequest (q : Request) (masks : Byte) (s : State) : State :=
  match maskSetOf masks with
  | none => (s.refuse q .badValue).emit
  | some m =>
    if s.run.state = .none then (s.refuse q .wrongState).emit
    else ((s.onRun fun r => { r with masks := m }).answerOk q []).emit

/-! ## RESUME -/

/-- Step 1: the hold ends and the run is in its return state (R137). -/
def endHold (ret : RunState) (s : State) : State :=
  s.onRun fun r => { r with hold := none, returnState := none, state := ret }

/-- Step 3: the run completes what it awaits in the state that step 2 leaves (R138, log 19). -/
def completeWait (s : State) : State :=
  match s.run.state with
  | .deciding => if s.allCollected then s.makeDecision else s.startTally .deciding
  | .draining => if s.allTallied then s.normalEnd else s.startTally .draining
  | _ => s

/-- The replay goes on: the run is neither HELD nor HALTING, and has not ended (R139). -/
def replays (s : State) : Bool :=
  s.run.state != .held && s.run.state != .halting && s.run.state != .none

/-- The buffered records are taken from the front while the replay goes on (R139, R105). -/
def replay : List FeedRecord → State → State
  | [], s => s
  | r :: rest, s =>
    if s.replays then replay rest ((s.onRun fun c => { c with buffer := rest }).arriveRecord r) else s

/-- CONTINUE is sent to a paused source when the replay has ended with the buffer empty and the run neither HELD nor
HALTING (R139). -/
def continueSource (s : State) : State :=
  if s.replays && s.run.buffer.isEmpty && s.run.paused then
    (s.sendSource .continue).onRun fun r => { r with paused := false }
  else s

/-- Step 4 (R139). -/
def replayBuffer (s : State) : State := (replay s.run.buffer s).continueSource

/-- The four steps of RESUME (R137). -/
def resumeRun (hold : HoldRecord) (ret : RunState) (s : State) : State :=
  (((s.endHold ret).applyDefault hold.raised).completeWait).replayBuffer

/-- RESUME (R137). -/
def resumeRequest (q : Request) (s : State) : State :=
  match s.run.state, s.run.hold, s.run.returnState with
  | .held, some hold, some ret => ((s.resumeRun hold ret).answerOk q []).settle
  | _, _, _ => (s.refuse q .wrongState).emit

/-! ## RUN_STATUS -/

/-- The tally set, in DRAINING and in HELD with return state DRAINING (R141). -/
def shownTallied (s : State) : HeadSet := if s.endTallyTaken then s.run.tallied else 0

/-- The tally collection set, while DECIDING or HELD with return state DECIDING (R127, R141). -/
def shownCollected (s : State) : HeadSet := if s.tallyTaken then s.collectedSet else 0

/-- The limit and pass count of a level (11.2). -/
def levelBytes (l : GateLevel) : List Byte := be16OfNat l.limit ++ be16OfNat l.passCount

/-- The four levels from depth 1 upward, an absent level zero bytes (11.2, R185). -/
def stackBytes (s : State) : List Byte :=
  (List.range 4).flatMap fun k => ((s.gates.levels.reverse[k]?).map levelBytes).getD (List.replicate 4 0)

/-- The start failure and its reason (11.2). -/
def failureBytes (f : Option StartFailure) : List Byte :=
  match f with
  | none => [0, 0]
  | some (.decline reason) => [1, reason]
  | some .timeout => [2, 0]

/-- The fields of a RUN_STATUS reply, 56 bytes (11.2, R141). -/
def runStatusBytes (s : State) : List Byte :=
  be16 s.run.runNumber ++ [s.run.state.code] ++ be32 s.run.recordCount ++ be16 (s.run.exceptions.setWidth 16) ++
    [optCode (fun i => byteOf i.val) s.run.slot, s.run.group.setWidth 8, s.run.masks.setWidth 8,
      optCode RunState.code s.run.returnState, boolByte s.run.paused, byteOf s.run.buffer.length,
      s.shownTallied.setWidth 8, optCode RunAbort.code s.run.abortCause] ++
    failureBytes s.run.startFailure ++ ((s.run.hold.map HoldRecord.bytes).getD (List.replicate 17 0)) ++
    [byteOf s.gates.levels.length] ++ be16OfNat s.gates.phantom ++ s.stackBytes ++ [s.shownCollected.setWidth 8]

/-- RUN_STATUS (R141). -/
def runStatusRequest (q : Request) (s : State) : State := (s.answerOk q s.runStatusBytes).emit

/-! ## FEED_RESET -/

/-- FEED_RESET: not answered until RESET_DONE or the expiry (R107). -/
def feedResetRequest (q : Request) (s : State) : State :=
  if s.run.state ≠ .none ∨ s.run.resetPending.isSome then (s.refuse q .wrongState).emit
  else
    ((s.onRun fun r => { r with linkReady := false, resetPending := some q.tag, timer := some Config.fiftyMs }).sendSource
      .linkReset).emit

end State

/-! ## Meanings -/

/-- RUN_REQUEST (R84). -/
def execRunRequest (tag head slot : Byte) (s : State) : Result :=
  let q : Request := ⟨tag, Kind.runRequest, [head, slot]⟩
  .next (takeRequest q (State.runRequestRequest q head slot) s)

/-- RUN_CANCEL (R86). -/
def execRunCancel (tag head : Byte) (s : State) : Result :=
  let q : Request := ⟨tag, Kind.runCancel, [head]⟩
  .next (takeRequest q (State.runCancelRequest q head) s)

/-- ARBITER_SET (R88). -/
def execArbiterSet (tag enable : Byte) (s : State) : Result :=
  let q : Request := ⟨tag, Kind.arbiterSet, [enable]⟩
  .next (takeRequest q (State.arbiterSetRequest q enable) s)

/-- RUN_ABORT (R103). -/
def execRunAbort (tag : Byte) (s : State) : Result :=
  let q : Request := ⟨tag, Kind.runAbort, []⟩
  .next (takeRequest q (State.runAbortRequest q) s)

/-- RUN_DROP_HEAD (R108). -/
def execRunDropHead (tag head : Byte) (s : State) : Result :=
  let q : Request := ⟨tag, Kind.runDropHead, [head]⟩
  .next (takeRequest q (State.runDropHeadRequest q head) s)

/-- RUN_SET_MASK (R130). -/
def execRunSetMask (tag masks : Byte) (s : State) : Result :=
  let q : Request := ⟨tag, Kind.runSetMask, [masks]⟩
  .next (takeRequest q (State.runSetMaskRequest q masks) s)

/-- RESUME (R137). -/
def execResume (tag : Byte) (s : State) : Result :=
  let q : Request := ⟨tag, Kind.resume, []⟩
  .next (takeRequest q (State.resumeRequest q) s)

/-- RUN_STATUS (R141). -/
def execRunStatus (tag : Byte) (s : State) : Result :=
  let q : Request := ⟨tag, Kind.runStatus, []⟩
  .next (takeRequest q (State.runStatusRequest q) s)

/-- FEED_RESET (R107). -/
def execFeedReset (tag : Byte) (s : State) : Result :=
  let q : Request := ⟨tag, Kind.feedReset, []⟩
  .next (takeRequest q (State.feedResetRequest q) s)

end Sys2Proof.Machine
end

