-- ==== Sys2Proof/Machine/Heads.lean ====
section
/-!
DEFINITION. Requests to the Head Managers and what reaches them on the Head Link and the START line (chapter 8; R47):
the meanings of SITE_ENABLE to HEAD_RESET, of marks, losses and frames, and of the start filter's events.
-/

namespace Sys2Proof.Machine

namespace State

/-! ## Settings -/

/-- SITE_ENABLE in OFFLINE, STANDBY or IDLE (R47). -/
def enableSites (h : HeadId) (set : SiteSet) (s : State) : State :=
  (s.onHead h fun c => { c with enableSet := set }).mapSites h fun i c => c.enable (set.getLsbD i.val)

/-- SITE_ENABLE (R47). -/
def siteEnableRequest (q : Request) (head : Byte) (set : SiteSet) (s : State) : State :=
  match headOf head with
  | none => (s.refuse q .badValue).emit
  | some h =>
    match (s.head h).state with
    | .offline => ((s.enableSites h set).answerOk q []).emit
    | .standby => ((s.enableSites h set).answerOk q []).emit
    | .idle => ((s.enableSites h set).answerOk q []).emit
    | _ => (s.refuse q .wrongState).emit

/-- HEAD_EVENTS: bits 10 to 15 name no flag (R158, R185). -/
def headEventsRequest (q : Request) (head : Byte) (enables : Half) (s : State) : State :=
  match headOf head with
  | none => (s.refuse q .badValue).emit
  | some h =>
    if enables.extractLsb' 10 6 ≠ 0#6 then (s.refuse q .badValue).emit
    else ((s.onHead h fun c => { c with notices := enables.extractLsb' 0 10 }).answerOk q []).emit

/-- The notice enables with those of START_SEEN and START_EARLY replaced (R157). -/
def startNotices (on : Bool) (enables : BitVec 10) : BitVec 10 :=
  let both := HeadFlag.startSeen ||| HeadFlag.startEarly
  if on then enables ||| both else enables &&& ~~~both

/-- HEAD_SLEEP is in the Service Slot (R157). -/
def sleepInFlight (h : HeadId) (s : State) : Bool := (s.head h).slot.map Service.op == some .headSleep

/-- The fields of START_CONFIG replace the start configuration, the default slot and two notice enables; a filter
whose clock is stopped runs no candidate (R157, R155). -/
def configureStart (h : HeadId) (polarity : Polarity) (width : RejectWidth) (wake queue : Bool)
    (slot : Option SlotId) (notice : Bool) (s : State) : State :=
  (s.onHead h fun c =>
    { c with polarity := polarity, width := width, wakeOnStart := wake, autoQueue := queue, defaultSlot := slot,
             notices := startNotices notice c.notices }).pauseFilter h

/-- START_CONFIG (R157, R185). -/
def startConfigRequest (q : Request) (b : StartBody) (s : State) : State :=
  match headOf b.head, polarityOf b.polarity, widthOf b.width, onOff b.wake, onOff b.autoQueue,
        defaultSlotOf b.defaultSlot, onOff b.notice with
  | some h, some polarity, some width, some wake, some queue, some slot, some notice =>
    if ((s.head h).state = .standby ∨ s.sleepInFlight h) ∧ wake ∧ width ≠ .off then (s.refuse q .conflict).emit
    else ((s.configureStart h polarity width wake queue slot notice).answerOk q []).emit
  | _, _, _, _, _, _, _ => (s.refuse q .badValue).emit

/-! ## The link -/

/-- HEAD_LINK with enable on, by link state; `changed` says that the align mode changed (R143). -/
def enableLink (h : HeadId) (changed : Bool) (s : State) : State :=
  match (s.head h).link with
  | .off => (s.setLink h .seeking).onHead h fun c => { c with aligner := 0, markRun := 0 }
  | .seeking => if changed then s.onHead h fun c => { c with markRun := 0 } else s
  | _ => s

/-- HEAD_LINK with enable off, by link state (R143, R146). -/
def disableLink (h : HeadId) (s : State) : State :=
  match (s.head h).link with
  | .off => s
  | _ => ((s.setLink h .off).onHead h fun c => { c with reseek := false }).linkDown h

/-- HEAD_LINK stores its settings in every case (R143). -/
def configureLink (h : HeadId) (enable los : Bool) (mode : AlignMode) (s : State) : State :=
  let changed := (s.head h).alignMode != mode
  let t := s.onHead h fun c => { c with linkEnable := enable, losDetect := los, alignMode := mode }
  if enable then t.enableLink h changed else t.disableLink h

/-- The link state and the aligner position (R186). -/
def linkBytes (h : HeadId) (s : State) : List Byte := [(s.head h).link.code, byteOf (s.head h).aligner.val]

/-- HEAD_LINK (R143, R185). A service that the link takes with it is answered NO_ANSWER before the HEAD_LINK itself: the
spec gives no order, and this one is the model's choice (log 23). -/
def headLinkRequest (q : Request) (head enable los mode : Byte) (s : State) : State :=
  match headOf head, onOff enable, onOff los, alignModeOf mode with
  | some h, some e, some l, some m =>
    let t := s.configureLink h e l m
    (t.answerOk q (t.linkBytes h)).settle
  | _, _, _, _ => (s.refuse q .badValue).emit

/-- LINK_SHIFT (R144). -/
def linkShiftRequest (q : Request) (head : Byte) (s : State) : State :=
  match headOf head with
  | none => (s.refuse q .badValue).emit
  | some h =>
    if (s.head h).link = .seeking ∧ (s.head h).alignMode = .manual then
      let t := s.onHead h fun c => { c with aligner := c.aligner + 1, markRun := 0 }
      (t.answerOk q [byteOf (t.head h).aligner.val]).emit
    else (s.refuse q .wrongState).emit

/-! ## Services -/

/-- The states in which SUPPLY_SET is not taken (R151, check 2). -/
def supplyBarred (h : HeadId) (on : Bool) (s : State) : Bool :=
  (s.head h).link != .locked || (s.head h).state == .offline || (s.head h).state == .standby ||
    (s.head h).state == .waking || (!on && (s.head h).state == .inRun)

/-- The supply state at rest that a setting asks for. -/
def supplyTarget (on : Bool) : SupplyState := if on then .on else .off

/-- The supply service is issued, and the supply is RAMPING or FALLING (R151). -/
def startSupply (h : HeadId) (on : Bool) (origin : ServiceOrigin) (s : State) : State :=
  (s.issueService h (if on then .supplyOn else .supplyOff) origin).setSupply h (if on then .ramping else .falling)

/-- SUPPLY_SET (R151). -/
def supplySetRequest (q : Request) (head setting : Byte) (s : State) : State :=
  match headOf head, onOff setting with
  | some h, some on =>
    if s.supplyBarred h on then (s.refuse q .wrongState).emit
    else if on ∧ (s.head h).supply = .fault then (s.refuse q .wrongState).emit
    else if (s.head h).slot.isSome then (s.refuse q .slotBusy).emit
    else if (s.head h).supply = supplyTarget on then (s.answerOk q [(s.head h).supply.code]).emit
    else (s.startSupply h on (.host q.tag)).emit
  | _, _ => (s.refuse q .badValue).emit

/-- HEAD_ACCESS (R150). -/
def headAccessRequest (q : Request) (head direction register : Byte) (value : Half) (s : State) : State :=
  match headOf head, onOff direction with
  | some h, some write =>
    if (s.head h).link ≠ .locked then (s.refuse q .wrongState).emit
    else if (s.head h).slot.isSome then (s.refuse q .slotBusy).emit
    else
      (s.issueService h (if write then .headWrite register value else .headRead register) (.host q.tag)).emit
  | _, _ => (s.refuse q .badValue).emit

/-- HEAD_STANDBY (R153). -/
def headStandbyRequest (q : Request) (head : Byte) (s : State) : State :=
  match headOf head with
  | none => (s.refuse q .badValue).emit
  | some h =>
    let c := s.head h
    if c.state ≠ .idle ∨ c.supply ≠ .off then (s.refuse q .wrongState).emit
    else if c.wakeOnStart ∧ c.width ≠ .off then (s.refuse q .conflict).emit
    else if c.slot.isSome then (s.refuse q .slotBusy).emit
    else (s.issueService h .headSleep (.host q.tag)).emit

/-- HEAD_WAKE (R154). -/
def headWakeRequest (q : Request) (head : Byte) (s : State) : State :=
  match headOf head with
  | none => (s.refuse q .badValue).emit
  | some h =>
    if (s.head h).state ≠ .standby then (s.refuse q .wrongState).emit
    else if (s.head h).slot.isSome then (s.refuse q .slotBusy).emit
    else (s.startWake h (.host q.tag) false).emit

/-! ## HEAD_STATUS -/

/-- The Service Slot's operation and origin; a free slot is two zero bytes (11.2). -/
def slotBytes (v : Option Service) : List Byte :=
  match v with
  | none => [0, 0]
  | some sv =>
    [sv.op.code, match sv.origin with
                 | .host _ => 0
                 | .internal => 1]

/-- The pending wake (11.2). -/
def wakeByte (p : Option Bool) : Byte :=
  match p with
  | none => 0
  | some false => 1
  | some true => 2

/-- The fields of a HEAD_STATUS reply, 24 bytes (11.2, R159). -/
def headStatusBytes (c : HeadContext) : List Byte :=
  [c.state.code, boolByte c.linkEnable, boolByte c.losDetect, c.alignMode.code, c.link.code, byteOf c.aligner.val,
    c.supply.code] ++ slotBytes c.slot ++
    [wakeByte c.pendingWake, c.polarity.code, c.width.code, boolByte c.wakeOnStart, boolByte c.autoQueue,
      (c.defaultSlot.map fun i => byteOf i.val).getD 0xFF#8, LineLevel.code c.recognised] ++
    be32 c.enableSet ++ be16 (c.flags.setWidth 16) ++ be16 (c.notices.setWidth 16)

/-- HEAD_STATUS (R159). -/
def headStatusRequest (q : Request) (head : Byte) (s : State) : State :=
  match headOf head with
  | none => (s.refuse q .badValue).emit
  | some h => (s.answerOk q (headStatusBytes (s.head h))).emit

/-! ## HEAD_RESET -/

/-- The head's analysis job (R63). -/
def jobOf (h : HeadId) (s : State) : Option Job := s.alloc.jobs.find? fun j => j.head == h

/-- The job of the head leaves the queue; a job in service is stopped (R80). -/
def abandonJob (h : HeadId) (s : State) : State :=
  s.onAlloc fun a =>
    { jobs := a.jobs.filter fun j => j.head != h,
      engine := if (a.jobs.head?.map Job.head) = some h then none else a.engine }

/-- The reply to an abandoned HOST job (R80). -/
def answerAbandoned (j : Option Job) (s : State) : State :=
  match j with
  | some ⟨_, _, _, .host tag⟩ => s.answer Kind.analyse tag .abandoned []
  | _ => s

/-- The head's entries are freed and its watch entries cleared (R26, R20). -/
def clearCapture (h : HeadId) (s : State) : State :=
  (s.freeHeadEntries h).onCapture fun c =>
    { c with watches := Vector.ofFn fun k => if c.watches[k].head = h then Watch.reset else c.watches[k] }

/-- The link row of the table (R160). -/
def resetLink (h : HeadId) (s : State) : State :=
  match (s.head h).link with
  | .seeking => s.onHead h fun c => { c with reseek := false, markRun := 0 }
  | .lost => (s.setLink h .seeking).onHead h fun c => { c with reseek := false, markRun := 0 }
  | .locked => s.onHead h fun c => { c with missRun := 0 }
  | .off => s

/-- The head state row of the table, with the start filter under R155 (R160). -/
def resetHeadState (h : HeadId) (s : State) : State :=
  match (s.head h).state with
  | .standby => s
  | .waking => (s.setHeadState h .standby).pauseFilter h
  | _ => s.setHeadState h (s.restState h)

/-- The supply row of the table: an INTERNAL SUPPLY_OFF when the supply is not OFF (R160). -/
def resetSupply (h : HeadId) (s : State) : State :=
  if (s.head h).supply = .off then s else s.startSupply h false .internal

/-- The rest of a HEAD_RESET, after the drop (R160). -/
def resetParts (h : HeadId) (s : State) : State :=
  let t := (((s.dropUse (s.headSlot h)).unqueue h).abandonJob h).onBin h BinPort.withdrawn
  let t := (t.clearCapture h).mapSites h fun i _ => SiteContext.afterReset ((s.head h).enableSet.getLsbD i.val)
  (((t.clearSlot h).resetSupply h).resetLink h).resetHeadState h

/-- The drop that comes before the rest, when the head is IN_RUN (R160, R109). -/
def dropForReset (h : HeadId) (s : State) : State :=
  if (s.head h).state = .inRun then s.dropHead h .reset else s

/-- The whole HEAD_RESET of a head: drop, parts, replies (R160, log 23). -/
def resetHead (q : Request) (h : HeadId) (s : State) : State :=
  let t := s.dropForReset h
  (((t.resetParts h).answerAbandoned (t.jobOf h)).answerCancelled h (t.head h).slot .abandoned).answerOk q []

/-- HEAD_RESET (R160). -/
def headResetRequest (q : Request) (head : Byte) (s : State) : State :=
  match headOf head with
  | none => (s.refuse q .badValue).emit
  | some h => (s.resetHead q h).settle

/-! ## Frames of the head -/

/-- A SERVICE_REPLY frame handed to the Service Slot (R149). -/
def serviceReplyFrame (h : HeadId) (number : Byte) (result : ServiceResult) (value : Half) (s : State) : State :=
  match (s.head h).slot with
  | some sv => if sv.number = number then (s.endService h sv (.reply result value)).settle else s
  | none => s

/-- The expiry of the service timer (R149). -/
def serviceExpiry (h : HeadId) (s : State) : State :=
  match (s.head h).slot with
  | some sv => (s.endService h sv .timeout).settle
  | none => s

/-- A SUPPLY_TRIP frame handed to the supply (R152). -/
def supplyTripFrame (h : HeadId) (s : State) : State :=
  if (s.head h).supply = .on then
    let t := (s.setSupply h .fault).raiseFlag h HeadFlag.supplyTrip
    (if (s.head h).state = .inRun then t.dropHead h .supply else t).settle
  else s

/-- A frame of a head handed on by kind; an ill-formed one is discarded (R148, R187). -/
def headFrame (h : HeadId) (f : Option HeadInput) (s : State) : State :=
  match f with
  | none => s
  | some (.fail i k r c) => s.failFrame h i k r c false
  | some (.passTally d p m) => s.passTallyFrame h d p m
  | some .endTally => s.endTallyFrame h
  | some (.serviceReply n r v) => s.serviceReplyFrame h n r v
  | some .supplyTrip => s.supplyTripFrame h

/-- The wait for the next alignment mark behind a frame whose length is above 1027 (R187). -/
def awaitAfter (h : HeadId) (bytes : List Byte) (s : State) : State :=
  if headOverlong bytes then s.onHead h fun c => { c with awaitMark := true } else s

/-- The expiry of the re-seek timer: the link seeks again (R145). -/
def reseekExpiry (h : HeadId) (s : State) : State :=
  if (s.head h).link = .lost ∧ (s.head h).reseek then
    ((s.setLink h .seeking).onHead h fun c => { c with reseek := false, markRun := 0 }).report
  else s

/-- A change of the level of START (R155). -/
def startLine (h : HeadId) (level : LineLevel) (s : State) : State :=
  if s.lines[h].start = level then s
  else ((s.onLines h fun l => { l with start := level }).filterChange h level).settle

/-- The line has held the candidate's level for its whole width (R155). -/
def candidateExpiry (h : HeadId) (s : State) : State :=
  match (s.head h).candidate with
  | some c => (s.recognise h c.level).settle
  | none => s

end State

/-! ## Meanings -/

/-- SITE_ENABLE (R47). -/
def execSiteEnable (tag head : Byte) (set : SiteSet) (s : State) : Result :=
  let q : Request := ⟨tag, Kind.siteEnable, [head] ++ be32 set⟩
  .next (takeRequest q (State.siteEnableRequest q head set) s)

/-- HEAD_LINK (R143). -/
def execHeadLink (tag head enable los mode : Byte) (s : State) : Result :=
  let q : Request := ⟨tag, Kind.headLink, [head, enable, los, mode]⟩
  .next (takeRequest q (State.headLinkRequest q head enable los mode) s)

/-- LINK_SHIFT (R144). -/
def execLinkShift (tag head : Byte) (s : State) : Result :=
  let q : Request := ⟨tag, Kind.linkShift, [head]⟩
  .next (takeRequest q (State.linkShiftRequest q head) s)

/-- SUPPLY_SET (R151). -/
def execSupplySet (tag head setting : Byte) (s : State) : Result :=
  let q : Request := ⟨tag, Kind.supplySet, [head, setting]⟩
  .next (takeRequest q (State.supplySetRequest q head setting) s)

/-- HEAD_ACCESS (R150). -/
def execHeadAccess (tag head direction register : Byte) (value : Half) (s : State) : Result :=
  let q : Request := ⟨tag, Kind.headAccess, [head, direction, register] ++ be16 value⟩
  .next (takeRequest q (State.headAccessRequest q head direction register value) s)

/-- HEAD_STANDBY (R153). -/
def execHeadStandby (tag head : Byte) (s : State) : Result :=
  let q : Request := ⟨tag, Kind.headStandby, [head]⟩
  .next (takeRequest q (State.headStandbyRequest q head) s)

/-- HEAD_WAKE (R154). -/
def execHeadWake (tag head : Byte) (s : State) : Result :=
  let q : Request := ⟨tag, Kind.headWake, [head]⟩
  .next (takeRequest q (State.headWakeRequest q head) s)

/-- START_CONFIG (R157). -/
def execStartConfig (tag : Byte) (b : StartBody) (s : State) : Result :=
  let q : Request := ⟨tag, Kind.startConfig, startBodyWire b⟩
  .next (takeRequest q (State.startConfigRequest q b) s)

/-- HEAD_EVENTS (R158). -/
def execHeadEvents (tag head : Byte) (enables : Half) (s : State) : Result :=
  let q : Request := ⟨tag, Kind.headEvents, [head] ++ be16 enables⟩
  .next (takeRequest q (State.headEventsRequest q head enables) s)

/-- HEAD_STATUS (R159). -/
def execHeadStatus (tag head : Byte) (s : State) : Result :=
  let q : Request := ⟨tag, Kind.headStatus, [head]⟩
  .next (takeRequest q (State.headStatusRequest q head) s)

/-- HEAD_RESET (R160). -/
def execHeadReset (tag head : Byte) (s : State) : Result :=
  let q : Request := ⟨tag, Kind.headReset, [head]⟩
  .next (takeRequest q (State.headResetRequest q head) s)

/-- SERVICE_REPLY: frames are decoded by R148 and R187, and the Service Slot takes it by R149. -/
def execServiceReply (h : HeadId) (number : Byte) (result : ServiceResult) (value : Half) (s : State) : Result :=
  .next (if s.decodes h then s.serviceReplyFrame h number result value else s)

/-- SERVICE_TIMEOUT (R149). -/
def execServiceTimeout (h : HeadId) (s : State) : Result := .next (s.serviceExpiry h)

/-- SUPPLY_TRIP: frames are decoded by R148 and R187, and the supply takes it by R152. -/
def execSupplyTrip (h : HeadId) (s : State) : Result :=
  .next (if s.decodes h then s.supplyTripFrame h else s)

/-- HEAD_FRAME_DISCARD: an ill-formed frame reaches no block, and behind one with a length above 1027 no frame begins
before the next alignment mark (R148, R187); bytes that make a well-formed frame are that frame (log 16). -/
def execHeadFrameDiscard (h : HeadId) (bytes : List Byte) (s : State) : Result :=
  .next (if s.decodes h then (s.headFrame h (headInput bytes)).awaitAfter h bytes else s)

/-- ALIGN_MARK_PLACED (R144, R145). -/
def execAlignMarkPlaced (h : HeadId) (s : State) : Result := .next (s.placedMark h).settle

/-- ALIGN_MARK_MISPLACED (R144, R145). -/
def execAlignMarkMisplaced (h : HeadId) (position : Fin 16) (s : State) : Result :=
  .next (s.misplacedMark h position).settle

/-- SIGNAL_LOSS (R144, R145). -/
def execSignalLoss (h : HeadId) (s : State) : Result := .next (s.lossOfSignal h).settle

/-- RESEEK_TIMER_EXPIRY (R145). -/
def execReseekTimerExpiry (h : HeadId) (s : State) : Result := .next (s.reseekExpiry h)

/-- START_LINE_CHANGE (R155). -/
def execStartLineChange (h : HeadId) (level : LineLevel) (s : State) : Result := .next (s.startLine h level)

/-- START_CANDIDATE_EXPIRY (R155). -/
def execStartCandidateExpiry (h : HeadId) (s : State) : Result := .next (s.candidateExpiry h)

end Sys2Proof.Machine
end

