-- ==== Sys2Proof/Machine/Bins.lean ====
section
/-!
DEFINITION. Requests to the Repair Allocator, the Site Table and the Bin Ports, the engine's move and the edges of the
bin interface: ANALYSE, ALLOCATOR_MOVE, SITE_RESULT, BIN_CONFIG, BIN_RELEASE, BIN_STATUS, BCLK_EDGE, BIN_DELIVERY,
BIN_STALE_EXPIRY (chapters 3, 4 and 9).
-/

namespace Sys2Proof.Machine

namespace State

/-! ## Analysis -/

/-- ANALYSE: a job that joins is not answered yet (R64, R185). -/
def analyseRequest (q : Request) (head : Byte) (budget : Half) (force : Byte) (s : State) : State :=
  match headOf head, onOff force with
  | some h, some f =>
    if budget = 0#16 then (s.refuse q .badValue).emit
    else if (s.head h).state ≠ .analysis then (s.refuse q .wrongState).emit
    else if (s.jobOf h).isSome then (s.refuse q .duplicate).emit
    else (s.addJob ⟨h, budget, f, .host q.tag⟩).serve
  | _, _ => (s.refuse q .badValue).emit

/-! ## SITE_RESULT -/

/-- The capture flags in one byte (11.3). -/
def captureFlags (c : SiteContext) : Byte :=
  boolByte c.aborted.isSome ||| (boolByte c.captureLost <<< 1) ||| (boolByte c.expired <<< 2) |||
    (boolByte c.strictFail <<< 3) ||| (boolByte c.noRepair <<< 4)

/-- A pair of spare counters in one byte (11.3). -/
def spareByte (p : Spares) : Byte := (byteOf p.rows <<< 4) ||| byteOf p.columns

/-- The number of regions and eight bytes of spare counters; zero when absent (11.3). -/
def spareBytes (e : Option RunEntry) : List Byte :=
  let spares := (e.map RunEntry.spares).getD []
  byteOf spares.length :: (List.range 8).map fun k => ((spares[k]?).map spareByte).getD 0

/-- The allocator part: region index, phase, stack depth (11.3). -/
def contextBytes (w : Option Work) : List Byte :=
  match w with
  | none => [0, 0, 0]
  | some w => [byteOf w.region, w.phase.code, byteOf w.stack.length]

/-- The fields of a SITE_RESULT reply (11.3, R60). -/
def siteResultBytes (c : SiteContext) : List Byte :=
  [c.state.code, captureFlags c, optCode AbortCause.code c.aborted] ++ be16OfNat c.entriesHeld ++
    be16OfNat c.failCount ++ [byteOf c.unmappedCount, optCode (fun e => byteOf e.slot.val) c.entry] ++
    be16 ((c.entry.map RunEntry.runNumber).getD 0) ++ spareBytes c.entry ++ [optCode byteOf c.parkLevel] ++
    contextBytes c.context ++ [optCode (fun o => byteOf o.index.val) c.outcome,
      byteOf ((c.repairList.getD []).length)] ++ (c.repairList.getD []).flatMap RepairLine.bytes

/-- SITE_RESULT (R60). -/
def siteResultRequest (q : Request) (head site : Byte) (s : State) : State :=
  match headOf head, siteOf site with
  | some h, some i => (s.answerOk q (siteResultBytes (s.site h i))).emit
  | _, _ => (s.refuse q .badValue).emit

/-! ## The Bin Port -/

/-- BIN_CONFIG (R162). -/
def binConfigRequest (q : Request) (head format timeout : Byte) (s : State) : State :=
  match headOf head, finOf 4 format.toNat with
  | some h, some f =>
    if (s.head h).state = .binWait then (s.refuse q .wrongState).emit
    else
      ((s.onBin h fun b => { b with format := f, timeout := timeout, bdata := bdataIdle f }).answerOk q []).emit
  | _, _ => (s.refuse q .badValue).emit

/-- BIN_RELEASE (R169). -/
def binReleaseRequest (q : Request) (head : Byte) (s : State) : State :=
  match headOf head with
  | none => (s.refuse q .badValue).emit
  | some h =>
    if (s.head h).state ≠ .binWait then (s.refuse q .wrongState).emit
    else ((s.leaveBinWait h HeadFlag.binAbandoned).answerOk q []).report

/-- The fields of a BIN_STATUS reply, 24 bytes; without a frame its position, stale timer and bytes are zero bytes
(11.2, R171, R185). -/
def binStatusBytes (b : BinPort) : List Byte :=
  [byteOf b.format.val, b.timeout, boolByte b.frame.isSome] ++
    match b.frame with
    | none => List.replicate 21 0
    | some frame => [byteOf b.position, b.stale.code] ++ frame

/-- BIN_STATUS (R171). -/
def binStatusRequest (q : Request) (head : Byte) (s : State) : State :=
  match headOf head with
  | none => (s.refuse q .badValue).emit
  | some h => (s.answerOk q (binStatusBytes (s.bin h))).emit

/-- The handler completes the cycles that are left, BCLK ends at its idle level, and the frame is delivered; without
a frame the same edges shift nothing (R166, R167, log 11). -/
def completeFrame (h : HeadId) (s : State) : State :=
  let t := s.onLines h fun l => { l with bclk := bclkIdle (s.bin h).format }
  match (s.bin h).frame with
  | some _ => (t.deliver h).report
  | none => t

/-- The expiry of the stale timer (R168). -/
def staleExpiry (h : HeadId) (s : State) : State :=
  if (s.bin h).stale = .running then
    ((s.onBin h fun b => { b with stale := .expired }).raiseFlag h HeadFlag.binStale).report
  else s

end State

/-! ## Meanings -/

/-- SITE_RESULT (R60). -/
def execSiteResult (tag head site : Byte) (s : State) : Result :=
  let q : Request := ⟨tag, Kind.siteResult, [head, site]⟩
  .next (takeRequest q (State.siteResultRequest q head site) s)

/-- ANALYSE (R64). -/
def execAnalyse (tag head : Byte) (budget : Half) (force : Byte) (s : State) : Result :=
  let q : Request := ⟨tag, Kind.analyse, [head] ++ be16 budget ++ [force]⟩
  .next (takeRequest q (State.analyseRequest q head budget force) s)

/-- ALLOCATOR_MOVE (R66). -/
def execAllocatorMove (s : State) : Result := .next s.engineMove.serve

/-- BIN_CONFIG (R162). -/
def execBinConfig (tag head format timeout : Byte) (s : State) : Result :=
  let q : Request := ⟨tag, Kind.binConfig, [head, format, timeout]⟩
  .next (takeRequest q (State.binConfigRequest q head format timeout) s)

/-- BIN_RELEASE (R169). -/
def execBinRelease (tag head : Byte) (s : State) : Result :=
  let q : Request := ⟨tag, Kind.binRelease, [head]⟩
  .next (takeRequest q (State.binReleaseRequest q head) s)

/-- BIN_STATUS (R171). -/
def execBinStatus (tag head : Byte) (s : State) : Result :=
  let q : Request := ⟨tag, Kind.binStatus, [head]⟩
  .next (takeRequest q (State.binStatusRequest q head) s)

/-- BIN_DELIVERY (R167). -/
def execBinDelivery (h : HeadId) (s : State) : Result := .next (s.completeFrame h)

/-- BIN_STALE_EXPIRY (R168). -/
def execBinStaleExpiry (h : HeadId) (s : State) : Result := .next (s.staleExpiry h)

/-- BCLK_EDGE (R163, R166); the edge that completes cycle 152 delivers the frame (R167). -/
def execBclkEdge (h : HeadId) (level : LineLevel) (s : State) : Result := .next (s.bclkTo h level).report

end Sys2Proof.Machine
end

