-- ==== Sys2Proof/Machine/Plans.lean ====
section
/-!
DEFINITION. Requests to the Plan Store (section 2.5): PLAN_LOAD, PLAN_READ, PLAN_FREE.
-/

namespace Sys2Proof.Machine

namespace State

/-- The slot's use count. -/
def useCount (s : State) (i : SlotId) : Nat := s.store.slots[i].useCount

/-- The slot's record replaced as a whole, its use count kept (R39, R42). -/
def writeSlot (i : SlotId) (p : Option Plan) (s : State) : State :=
  s.onStore fun t => { t with slots := upd t.slots i fun x => { x with record := p } }

/-- PLAN_LOAD (R39). -/
def planLoadRequest (q : Request) (b : PlanBody) (s : State) : State :=
  match slotOf b.slot with
  | none => (s.refuse q .badValue).emit
  | some i =>
    if s.useCount i ≠ 0 then (s.refuse q .inUse).emit
    else
      match planOf b with
      | none => (s.refuse q .badValue).emit
      | some p => ((s.writeSlot i (some p)).answerOk q []).emit

/-- The fields of a PLAN_READ reply (11.2, R41). -/
def planReadBytes (i : SlotId) (s : State) : List Byte :=
  [byteOf i.val, boolByte (s.planAt i).isSome, byteOf (s.useCount i)] ++ ((s.planAt i).map Plan.bytes).getD []

/-- PLAN_READ (R41). -/
def planReadRequest (q : Request) (slot : Byte) (s : State) : State :=
  match slotOf slot with
  | none => (s.refuse q .badValue).emit
  | some i => (s.answerOk q (s.planReadBytes i)).emit

/-- PLAN_FREE (R42). -/
def planFreeRequest (q : Request) (slot : Byte) (s : State) : State :=
  match slotOf slot with
  | none => (s.refuse q .badValue).emit
  | some i =>
    if s.useCount i ≠ 0 then (s.refuse q .inUse).emit
    else ((s.writeSlot i none).answerOk q []).emit

end State

/-! ## Meanings -/

/-- PLAN_LOAD (R39). -/
def execPlanLoad (tag : Byte) (b : PlanBody) (s : State) : Result :=
  let q : Request := ⟨tag, Kind.planLoad, planBodyWire b⟩
  .next (takeRequest q (State.planLoadRequest q b) s)

/-- PLAN_READ (R41). -/
def execPlanRead (tag slot : Byte) (s : State) : Result :=
  let q : Request := ⟨tag, Kind.planRead, [slot]⟩
  .next (takeRequest q (State.planReadRequest q slot) s)

/-- PLAN_FREE (R42). -/
def execPlanFree (tag slot : Byte) (s : State) : Result :=
  let q : Request := ⟨tag, Kind.planFree, [slot]⟩
  .next (takeRequest q (State.planFreeRequest q slot) s)

end Sys2Proof.Machine
end

