-- ==== Sys2Proof/Machine/Port.lean ====
section
/-!
DEFINITION. The Control Link Port (chapter 10): power-on reset (R184), the receive framer and the transmitter (R172,
R175, R177), and IDENTIFY, STATUS, CONFIGURE, EVENTS_READ, PART_RESET.
-/

namespace Sys2Proof.Machine

/-! ## The transmitter -/

/-- The last byte of a frame leaves: a frame that still stands in its list leaves it from the front, and the request
of a reply leaves the window (R175, R177, R178). -/
def ControlPort.finish (x : Sending) (p : ControlPort) : ControlPort :=
  let q := { p with sending := none, lastSent := some x.frame.cls }
  if x.listed then
    match x.frame with
    | .reply r =>
      { q with replies := p.replies.tail,
               window := if r.accepted then p.window.filter fun e => e.request.tag != r.tag else p.window }
    | .notice _ => { q with notices := p.notices.tail }
  else q

/-- The port after PART_RESET, its reply apart: requests accepted before it, replies and notices are discarded, and a
frame being sent is sent to its end (R183). -/
def ControlPort.partReset (tag : Byte) (p : ControlPort) : ControlPort :=
  { p with window := p.window.dropWhile fun e => e.request.tag != tag
           replies := [], notices := [], overrunPending := false, flags := 0, config := .reset
           sending := p.sending.map fun x => { x with listed := false } }

namespace State

/-- The frame that was being sent has been sent to its end (R177). -/
def frameSent (s : State) : State :=
  match s.port.sending with
  | none => s
  | some x =>
    ((s.onPort (ControlPort.finish x)).onWire fun w => { w with toHost := w.toHost ++ [x.frame.bytes] }).emit

/-- The bytes are received one after the other (R172). -/
def receiveBytes (bytes : List Byte) (s : State) : State :=
  (s.onPort fun p => bytes.foldl ControlPort.receive p).emit

/-! ## Resets -/

/-- Every block but the port at its power-on state, the START filters at the level of their lines; the lines, what has
left the part and the waiting commands are not state of a block (R183, R184, R142). -/
def resetBlocks (s : State) : State :=
  { State.reset with
    port := s.port, lines := s.lines, wire := s.wire, pending := s.pending
    heads := Vector.ofFn fun h => HeadContext.reset s.lines[h].start }

/-- PART_RESET (R183). -/
def partResetRequest (q : Request) (s : State) : State :=
  (((s.onPort (ControlPort.partReset q.tag)).resetBlocks).answerOk q []).emit

/-- Power-on reset (R184). -/
def powerOn (s : State) : State := (s.resetBlocks).onPort fun _ => .reset

/-! ## Identity, status and configuration -/

/-- The fields of an IDENTIFY reply (R182). -/
def identifyBytes : List Byte :=
  be16 Config.partCode ++ [Config.revision, byteOf 4, byteOf 32] ++ be16OfNat Config.tableSize ++ [byteOf 8]

/-- IDENTIFY (R182). -/
def identifyRequest (q : Request) (s : State) : State := (s.answerOk q identifyBytes).emit

/-- A queue entry in the STATUS reply (11.2). -/
def queueEntryBytes (e : QueueEntry) : List Byte :=
  [byteOf e.head.val, byteOf e.slot.val, byteOf e.planClass.val, byteOf e.level.val]

/-- The run number from grant to run end, zero otherwise (R182, R185). -/
def shownRunNumber (s : State) : Half := if s.run.state = .none then 0 else s.run.runNumber

/-- The fields of a STATUS reply, 32 bytes (11.2, R182). -/
def statusBytes (s : State) : List Byte :=
  [s.run.state.code] ++ be16 s.shownRunNumber ++ [s.run.group.setWidth 8, byteOf s.arbiter.queue.length] ++
    ((List.range 4).flatMap fun k => ((s.arbiter.queue[k]?).map queueEntryBytes).getD (List.replicate 4 0)) ++
    [boolByte s.arbiter.enabled] ++ (allHeads.map fun h => (s.head h).state.code) ++
    [boolByte (!s.run.linkReady), boolByte s.run.resetPending.isSome] ++
    be16OfNat s.capture.table.freeCount ++ [byteOf s.port.window.length, byteOf s.port.notices.length]

/-- STATUS (R182). -/
def statusRequest (q : Request) (s : State) : State := (s.answerOk q s.statusBytes).emit

/-- All the fields of a CONFIGURE body in range (R181, R185). -/
def configOf (b : ConfigureBody) : Option (PartConfig × Vector (Fin 4) 8) :=
  match classMapOf b.classMap, onOff b.runNotices, onOff b.analysisNotices, onOff b.watchNotices with
  | some m, some r, some a, some w =>
    if b.tallyTimeout = 0#16 then none else some (⟨b.tallyTimeout, r, a, w⟩, m)
  | _, _, _, _ => none

/-- CONFIGURE (R181). -/
def configureRequest (q : Request) (b : ConfigureBody) (s : State) : State :=
  match configOf b with
  | none => (s.refuse q .badValue).emit
  | some (c, m) =>
    (((s.onPort fun p => { p with config := c }).onStore fun t => { t with classMap := m }).answerOk q []).emit

/-- The part flags and the ten flags of each head (R180). -/
def eventBytes (s : State) : List Byte :=
  [s.port.flags.setWidth 8] ++ allHeads.flatMap fun h => be16 ((s.head h).flags.setWidth 16)

/-- The flags named in the clear sets are cleared; bits that name no flag are passed over (R180, R185). -/
def clearEvents (b : EventsBody) (s : State) : State :=
  let t := s.onPort fun p => { p with flags := p.flags &&& ~~~(b.partClear.extractLsb' 0 4) }
  { t with heads := Vector.ofFn fun h =>
      { s.heads[h] with flags := s.heads[h].flags &&& ~~~(b.headClear[h].extractLsb' 0 10) } }

/-- EVENTS_READ (R180, R158). -/
def eventsReadRequest (q : Request) (b : EventsBody) (s : State) : State :=
  ((s.clearEvents b).answerOk q s.eventBytes).emit

end State

/-! ## Meanings -/

/-- POWER_ON_RESET (R184). -/
def execPowerOnReset (s : State) : Result := .next s.powerOn

/-- CONTROL_FRAME_RECEIVE: the bytes of a frame, one after the other (R172 to R175). -/
def execControlFrameReceive (bytes : List Byte) (s : State) : Result := .next (s.receiveBytes bytes)

/-- CONTROL_BYTE_DISCARD: one byte outside a frame (R172). -/
def execControlByteDiscard (byte : Byte) (s : State) : Result := .next (s.receiveBytes [byte])

/-- REQUEST_HAND_ON (R175). -/
def execRequestHandOn (s : State) : Result := .next (s.onPort ControlPort.handOn)

/-- FRAME_SENT (R177). -/
def execFrameSent (s : State) : Result := .next s.frameSent

/-- IDENTIFY (R182). -/
def execIdentify (tag : Byte) (s : State) : Result :=
  let q : Request := ⟨tag, Kind.identify, []⟩
  .next (takeRequest q (State.identifyRequest q) s)

/-- STATUS (R182). -/
def execStatus (tag : Byte) (s : State) : Result :=
  let q : Request := ⟨tag, Kind.status, []⟩
  .next (takeRequest q (State.statusRequest q) s)

/-- CONFIGURE (R181). -/
def execConfigure (tag : Byte) (b : ConfigureBody) (s : State) : Result :=
  let q : Request := ⟨tag, Kind.configure, configureBodyWire b⟩
  .next (takeRequest q (State.configureRequest q b) s)

/-- EVENTS_READ (R180). -/
def execEventsRead (tag : Byte) (b : EventsBody) (s : State) : Result :=
  let q : Request := ⟨tag, Kind.eventsRead, eventsBodyWire b⟩
  .next (takeRequest q (State.eventsReadRequest q b) s)

/-- PART_RESET (R183). -/
def execPartReset (tag : Byte) (s : State) : Result :=
  let q : Request := ⟨tag, Kind.partReset, []⟩
  .next (takeRequest q (State.partResetRequest q) s)

end Sys2Proof.Machine
end

