-- ==== Sys2Proof/Machine/Dispatch.lean ====
section
/-!
DEFINITION. Which meaning each command has: one arm per constructor of Instr.
-/

namespace Sys2Proof.Machine

def exec (i : Instr) (s : State) : Host.Outcome State Fault Refusal :=
  match i with
  | .powerOnReset => Sys2Proof.Machine.execPowerOnReset s
  | .controlFrameReceive bytes => Sys2Proof.Machine.execControlFrameReceive bytes s
  | .controlByteDiscard byte => Sys2Proof.Machine.execControlByteDiscard byte s
  | .requestHandOn => Sys2Proof.Machine.execRequestHandOn s
  | .frameSent => Sys2Proof.Machine.execFrameSent s
  | .identify tag => Sys2Proof.Machine.execIdentify tag s
  | .status tag => Sys2Proof.Machine.execStatus tag s
  | .configure tag body => Sys2Proof.Machine.execConfigure tag body s
  | .eventsRead tag body => Sys2Proof.Machine.execEventsRead tag body s
  | .partReset tag => Sys2Proof.Machine.execPartReset tag s
  | .planLoad tag body => Sys2Proof.Machine.execPlanLoad tag body s
  | .planRead tag slot => Sys2Proof.Machine.execPlanRead tag slot s
  | .planFree tag slot => Sys2Proof.Machine.execPlanFree tag slot s
  | .siteEnable tag head set => Sys2Proof.Machine.execSiteEnable tag head set s
  | .headLink tag head enable los mode => Sys2Proof.Machine.execHeadLink tag head enable los mode s
  | .linkShift tag head => Sys2Proof.Machine.execLinkShift tag head s
  | .supplySet tag head setting => Sys2Proof.Machine.execSupplySet tag head setting s
  | .headAccess tag head direction register value => Sys2Proof.Machine.execHeadAccess tag head direction register value s
  | .headStandby tag head => Sys2Proof.Machine.execHeadStandby tag head s
  | .headWake tag head => Sys2Proof.Machine.execHeadWake tag head s
  | .startConfig tag body => Sys2Proof.Machine.execStartConfig tag body s
  | .headEvents tag head enables => Sys2Proof.Machine.execHeadEvents tag head enables s
  | .headStatus tag head => Sys2Proof.Machine.execHeadStatus tag head s
  | .headReset tag head => Sys2Proof.Machine.execHeadReset tag head s
  | .runRequest tag head slot => Sys2Proof.Machine.execRunRequest tag head slot s
  | .runCancel tag head => Sys2Proof.Machine.execRunCancel tag head s
  | .arbiterSet tag enable => Sys2Proof.Machine.execArbiterSet tag enable s
  | .runAbort tag => Sys2Proof.Machine.execRunAbort tag s
  | .runDropHead tag head => Sys2Proof.Machine.execRunDropHead tag head s
  | .runSetMask tag masks => Sys2Proof.Machine.execRunSetMask tag masks s
  | .resume tag => Sys2Proof.Machine.execResume tag s
  | .runStatus tag => Sys2Proof.Machine.execRunStatus tag s
  | .feedReset tag => Sys2Proof.Machine.execFeedReset tag s
  | .watchSet tag body => Sys2Proof.Machine.execWatchSet tag body s
  | .watchRead tag index => Sys2Proof.Machine.execWatchRead tag index s
  | .tableRead tag head site start count => Sys2Proof.Machine.execTableRead tag head site start count s
  | .siteResult tag head site => Sys2Proof.Machine.execSiteResult tag head site s
  | .analyse tag head budget force => Sys2Proof.Machine.execAnalyse tag head budget force s
  | .binConfig tag head format timeout => Sys2Proof.Machine.execBinConfig tag head format timeout s
  | .binRelease tag head => Sys2Proof.Machine.execBinRelease tag head s
  | .binStatus tag head => Sys2Proof.Machine.execBinStatus tag head s
  | .accept runNumber => Sys2Proof.Machine.execAccept runNumber s
  | .decline reason => Sys2Proof.Machine.execDecline reason s
  | .acceptTimeout => Sys2Proof.Machine.execAcceptTimeout s
  | .block payload => Sys2Proof.Machine.execBlock payload s
  | .gateOpen limit => Sys2Proof.Machine.execGateOpen limit s
  | .gateClose => Sys2Proof.Machine.execGateClose s
  | .endRecord => Sys2Proof.Machine.execEnd s
  | .halted => Sys2Proof.Machine.execHalted s
  | .resetDone => Sys2Proof.Machine.execResetDone s
  | .feedMessageIllFormed bytes => Sys2Proof.Machine.execFeedMessageIllFormed bytes s
  | .haltTimeout => Sys2Proof.Machine.execHaltTimeout s
  | .feedResetTimeout => Sys2Proof.Machine.execFeedResetTimeout s
  | .tallyTimeoutDeciding => Sys2Proof.Machine.execTallyTimeoutDeciding s
  | .tallyTimeoutDraining => Sys2Proof.Machine.execTallyTimeoutDraining s
  | .fail head site bank row column => Sys2Proof.Machine.execFail head site bank row column s
  | .passTally head depth pass matched => Sys2Proof.Machine.execPassTally head depth pass matched s
  | .endTally head => Sys2Proof.Machine.execEndTally head s
  | .allocatorMove => Sys2Proof.Machine.execAllocatorMove s
  | .binDelivery head => Sys2Proof.Machine.execBinDelivery head s
  | .binStaleExpiry head => Sys2Proof.Machine.execBinStaleExpiry head s
  | .startLineChange head level => Sys2Proof.Machine.execStartLineChange head level s
  | .startCandidateExpiry head => Sys2Proof.Machine.execStartCandidateExpiry head s
  | .alignMarkPlaced head => Sys2Proof.Machine.execAlignMarkPlaced head s
  | .alignMarkMisplaced head position => Sys2Proof.Machine.execAlignMarkMisplaced head position s
  | .signalLoss head => Sys2Proof.Machine.execSignalLoss head s
  | .reseekTimerExpiry head => Sys2Proof.Machine.execReseekTimerExpiry head s
  | .headFrameDiscard head bytes => Sys2Proof.Machine.execHeadFrameDiscard head bytes s
  | .serviceReply head number result value => Sys2Proof.Machine.execServiceReply head number result value s
  | .serviceTimeout head => Sys2Proof.Machine.execServiceTimeout head s
  | .supplyTrip head => Sys2Proof.Machine.execSupplyTrip head s
  | .bclkEdge head level => Sys2Proof.Machine.execBclkEdge head level s

end Sys2Proof.Machine
end

