-- ==== Sys2Proof/Machine/Step.lean ====
section
/-!
DEFINITION. One step of the part: the command at the front of the queue (log 1); on an empty queue the part idles
(log 2), but for a raise that waits for the Run Controller (log 29).
-/

namespace Sys2Proof.Machine

/-- The state with the waiting commands replaced. -/
def State.withPending (s : State) (q : List Instr) : State := { s with pending := q }

/-- One step. On an empty queue the Run Controller takes the raises of the oldest word that has any waiting (R133, log
29). -/
def step (s : State) : Host.Outcome State Fault Refusal :=
  match s.pending with
  | [] => .next s.takeOldestRaises
  | c :: rest => exec c (s.withPending rest)

/-- The state with the command that a word spells at the front of the queue; no row of the table has bits, so no
word spells one. -/
def State.withFetchWord (s : State) (nbits w : Nat) : State :=
  match decodeTableWord nbits w with
  | some c => s.withPending (c :: s.pending)
  | none => s

end Sys2Proof.Machine
end

