-- ==== Sys2Proof/Safety.lean ====
section
/-!
DEFINITION. What statements about runs speak of: which blocks a step may change, and the laws of the part that every
step keeps (R2, R3, R104, R111, R175, R178).
-/

namespace Sys2Proof.Machine

/-! ## Frames -/

/-- The parts of a State. -/
inductive Block where
  | port
  | store
  | heads
  | arbiter
  | run
  | gates
  | capture
  | sites
  | alloc
  | bins
  | lines
  | wire
  | pending
  deriving DecidableEq, Repr

/-- Two states hold the same block. -/
def State.agrees (b : Block) (s t : State) : Prop :=
  match b with
  | .port => t.port = s.port
  | .store => t.store = s.store
  | .heads => t.heads = s.heads
  | .arbiter => t.arbiter = s.arbiter
  | .run => t.run = s.run
  | .gates => t.gates = s.gates
  | .capture => t.capture = s.capture
  | .sites => t.sites = s.sites
  | .alloc => t.alloc = s.alloc
  | .bins => t.bins = s.bins
  | .lines => t.lines = s.lines
  | .wire => t.wire = s.wire
  | .pending => t.pending = s.pending

/-- `t` differs from `s` at most in the named blocks. -/
def State.SameBut (m : List Block) (s t : State) : Prop := ∀ b, b ∉ m → State.agrees b s t

/-! ## Requests -/

/-- The request that the command `c` stands for reaches its owner in `s`; `p` is the port once the owner has taken it
(R175, log 4). -/
def State.AtOwner (c : Instr) (q : Request) (p : ControlPort) (s : State) : Prop :=
  requestOf c = some q ∧ s.port.offer q = some p

/-- What holds of every request, port and state in which the command is at its owner. -/
def WhenTaken (c : Instr) (holds : Request → ControlPort → State → Prop) : Prop :=
  ∀ (q : Request) (p : ControlPort) (s : State), s.AtOwner c q p → holds q p s

/-- The state `s` with the port `p`, on which the reply to `q` has joined the reply list (R175). -/
def State.replied (p : ControlPort) (q : Request) (st : Status) (fields : List Byte) (s : State) : State :=
  { s with port := { p with replies := p.replies ++ [⟨q.kind, q.tag, st, fields, true⟩] } }

/-- The same, and the transmitter goes on (R177). -/
def State.answered (p : ControlPort) (q : Request) (st : Status) (fields : List Byte) (s : State) : State :=
  (s.replied p q st fields).emit

/-- The same for a request answered later: its owner has taken it, and no reply is made yet (R176). -/
def State.takenBy (p : ControlPort) (s : State) : State := ({ s with port := p }).emit

/-- Every field of a PLAN_LOAD body is in range (the table of R39). -/
structure PlanBody.InRange (b : PlanBody) : Prop where
  planClass : b.planClass.toNat ≤ 7
  joinSet : b.joinSet.toNat ≤ 15
  regionCount : 1 ≤ b.regions.length ∧ b.regions.length ≤ 8
  bank : ∀ r ∈ b.regions, r.bank.toNat ≤ 15
  rows : ∀ r ∈ b.regions, r.rowBase.toNat ≤ r.rowLimit.toNat
  columns : ∀ r ∈ b.regions, r.columnBase.toNat ≤ r.columnLimit.toNat ∧ r.columnLimit.toNat ≤ 4095
  spares : ∀ r ∈ b.regions, r.spareRows.toNat ≤ 15 ∧ r.spareColumns.toNat ≤ 15
  policy : ∀ r ∈ b.regions, r.policy.toNat ≤ 2
  quota : 1 ≤ b.quota.toNat ∧ b.quota.toNat ≤ 4096
  expiry : b.expiry.toNat ≤ 1
  masks : b.masks.toNat ≤ 127
  autoAnalyse : b.autoAnalyse.toNat ≤ 1
  autoBudget : b.autoBudget ≠ 0
  codes : (∀ i : Fin 8, b.outcomeMap[i].toNat ≤ 15) ∧ b.absentCode.toNat ≤ 15

/-- Every field of a WATCH_SET body is in range (R21; R185 for the on/off bytes). -/
structure WatchBody.InRange (b : WatchBody) : Prop where
  index : b.index.toNat ≤ 3
  valid : b.valid.toNat ≤ 1
  head : b.head.toNat ≤ 3
  site : b.site.toNat = 255 ∨ b.site.toNat ≤ 31
  bank : b.bank.toNat ≤ 15
  column : b.column.toNat = 65535 ∨ b.column.toNat ≤ 4095
  hold : b.hold.toNat ≤ 1

/-! ## Fail words -/

/-- The fail word `w` is taken in `s` and falls in the ANALYSE region `k` of its site, which is marked neither
no_repair nor capture_lost (R5, R7, R8, R9, R148, R187). -/
structure State.Analyses (w : FailWord) (k : Nat) (s : State) : Prop where
  decoded : s.decodes w.head = true
  range : w.bank.toNat ≤ 15 ∧ w.column.toNat ≤ 4095
  head : (s.head w.head).state = .inRun
  site : (s.site w.head w.site).state = .testing
  region : ∃ (p : Plan) (r : Region), s.sitePlan (s.site w.head w.site) = some p ∧
    findRegion w 0 p.regions = some (k, r) ∧ r.policy = .analyse
  open_ : (s.site w.head w.site).noRepair = false ∧ (s.site w.head w.site).captureLost = false

/-- The command that carries a fail word; its raises wait or are taken in its own step (log 29). -/
def FailWord.command (w : FailWord) (waits : Bool) : Instr :=
  .fail ⟨w.head, waits⟩ (byteOf w.site.val) w.bank w.row w.column

/-- The fail word `w` makes `t` of `s`, the raises that it hands on waiting in `t`: they stay there, or the Run
Controller takes them and those before them in the same step (R133, log 29). -/
def FailWord.Makes (w : FailWord) (s t : State) : Prop :=
  exec (w.command true) s = .next t.emit ∧ exec (w.command false) s = .next t.takeRaises.emit

/-- A valid watch entry that matches the fail word has its hold flag on, so that the word raises WATCH (R22). -/
abbrev State.WatchHolds (w : FailWord) (s : State) : Prop :=
  ∃ k : Fin 4, let e := s.capture.watches[k]
    e.valid = true ∧ e.head = w.head ∧ (e.site = none ∨ e.site = some w.site) ∧ e.bank = w.bank ∧ e.row = w.row ∧
      (e.column = none ∨ e.column = some w.column) ∧ e.hold = true

/-- The raise of a cause for the fail word `w` handed to the Run Controller, behind those that wait already (R133); the
second exception of a word that raises WATCH follows it (R19). -/
def State.handing (w : FailWord) (cause : FailCause) (region : Option Nat) (s : State) : State :=
  { s with capture := { s.capture with
      raises := s.capture.raises ++ [⟨s.run.runNumber, cause, w.head, w.site, region, w.row, w.column,
        decide (cause ≠ .watch ∧ s.WatchHolds w)⟩] } }

/-- The state after the fail count and the watch check of a fail word that is taken (R6, R22). -/
def State.watched (w : FailWord) (s : State) : State :=
  watchCheck w (s.onSite w.head w.site fun c => { c with failCount := satInc 65535 c.failCount })

/-- The fail table of the state replaced. -/
def State.withTable (t : FailTable) (s : State) : State := { s with capture := { s.capture with table := t } }

/-- The first FREE entry of the table (R3). -/
def FailTable.FirstFree (t : FailTable) (i : Nat) : Prop := i < 4096 ∧ t.read i = none ∧ ∀ j < i, t.read j ≠ none

/-- No line of the site and region covers the fail, and the cell is not held (R10, R11 do not apply). -/
def State.Uncovered (w : FailWord) (k : Nat) (s : State) : Prop :=
  ∀ x ∈ s.capture.table, x.2.ofRegion w.head w.site k = true →
    x.2.key ≠ .rowLine w.row ∧ x.2.key ≠ .colLine w.column ∧ x.2.key ≠ .cell w.row w.column

/-- The cells of the site and region in the row of the fail, with their indices (R12). -/
def State.cellsInRow (w : FailWord) (k : Nat) (s : State) : FailTable :=
  s.capture.table.filter fun x => x.2.ofRegion w.head w.site k && x.2.key.cellInRow w.row

/-- The cells of the site and region in the column of the fail, with their indices (R13). -/
def State.cellsInColumn (w : FailWord) (k : Nat) (s : State) : FailTable :=
  s.capture.table.filter fun x => x.2.ofRegion w.head w.site k && x.2.key.cellInColumn w.column

/-! ## Replies and what is sent -/

/-- The head field that a request carries (R186). -/
def headField : Instr → Option Byte
  | .siteEnable _ h _ => some h
  | .headLink _ h _ _ _ => some h
  | .linkShift _ h => some h
  | .supplySet _ h _ => some h
  | .headAccess _ h _ _ _ => some h
  | .headStandby _ h => some h
  | .headWake _ h => some h
  | .startConfig _ b => some b.head
  | .headEvents _ h _ => some h
  | .headStatus _ h => some h
  | .headReset _ h => some h
  | .runRequest _ h _ => some h
  | .runCancel _ h => some h
  | .runDropHead _ h => some h
  | .watchSet _ b => some b.head
  | .tableRead _ h _ _ _ => some h
  | .siteResult _ h _ => some h
  | .analyse _ h _ _ => some h
  | .binConfig _ h _ _ => some h
  | .binRelease _ h => some h
  | .binStatus _ h => some h
  | _ => none

/-- The wire with `down h` sent down the link of each head that is LOCKED in `s` (R148), and `up` sent to the source. -/
def State.sending (s : State) (up : List SourceMessage) (down : HeadId → List HeadFrame) : Wire :=
  { s.wire with
    toSource := s.wire.toSource ++ up
    toHead := Vector.ofFn fun h => s.wire.toHead[h] ++ if (s.head h).link = .locked then down h else [] }

/-- The list with `x` in it when `b` holds. -/
def onlyIf {α : Type} (b : Bool) (x : α) : List α := if b then [x] else []

/-- The heads of the group of the run. -/
def State.inGroup (s : State) (h : HeadId) : Bool := s.run.group.getLsbD h.val

/-! ## Laws of the part -/

/-- A line key covers a cell key: it names its row or its column (R2). -/
def EntryKey.covers : EntryKey → EntryKey → Bool
  | .rowLine r, k => k.cellInRow r
  | .colLine c, k => k.cellInColumn c
  | .cell _ _, _ => false

/-- The same site and region. -/
def Entry.sameRegion (a b : Entry) : Bool := a.head == b.head && a.site == b.site && a.region == b.region

/-- The number of entries of a site in the table. -/
def FailTable.heldBy (h : HeadId) (i : SiteId) (t : FailTable) : Nat := (t.filter fun x => x.2.ofSite h i).length

/-- A site that is in no run. -/
def SiteContext.atRest (c : SiteContext) : Bool := c.state == .off || c.state == .ready

/-- The table is in its canonical form; no two entries share their key and no cell lies under a line (the first and
second laws, R2); each site's entries-held counts its entries (the count of the third law, R3), and a site that is OFF
or READY holds none (R47, R48). -/
structure TableLaws (s : State) : Prop where
  canonical : s.capture.table.wf = true
  keys : ∀ x ∈ s.capture.table, ∀ y ∈ s.capture.table, x.2.sameRegion y.2 = true → x.2.key = y.2.key → x = y
  uncovered : ∀ x ∈ s.capture.table, ∀ y ∈ s.capture.table, x.2.sameRegion y.2 = true →
    x.2.key.covers y.2.key = false
  counted : ∀ h i, (s.site h i).entriesHeld = s.capture.table.heldBy h i
  rested : ∀ h i, (s.site h i).atRest = true → (s.site h i).entriesHeld = 0

/-- The bounds of the Feed Hold Buffer, the Gate Stack and the phantom depth, what is empty in NONE (R104, R105, R111,
R112, R91), and the states a hold returns to (R135). -/
structure RunLaws (s : State) : Prop where
  buffer : s.run.buffer.length ≤ 16
  levels : s.gates.levels.length ≤ 4
  phantom : s.gates.phantom ≤ 65535
  resting : s.run.state = .none →
    s.run.buffer = [] ∧ s.gates.levels = [] ∧ s.gates.phantom = 0 ∧ s.run.group = 0
  returns : ∀ r, s.run.returnState = some r → r = .streaming ∨ r = .deciding ∨ r = .draining

/-- The bounds of the Request Window with its distinct tags, of the refusal replies and of the Notice Queue (R174,
R175, R177, R178). -/
structure PortLaws (p : ControlPort) : Prop where
  window : p.window.length ≤ 8
  tags : (p.window.map fun e => e.request.tag).Nodup
  refusals : p.refusals ≤ 8
  notices : p.notices.length ≤ 32

/-- The transmitter is never free while a frame waits (R177), and no head event waits for its notice (R158, log 8). -/
structure Reported (s : State) : Prop where
  transmitting : s.port.sending = none → s.port.replies = [] ∧ s.port.notices = []
  events : ∀ h : HeadId, (s.head h).raised = 0

/-- The head states that a head reaches through a LOCKED link and leaves with it (R146, R147). -/
def HeadState.onLink (x : HeadState) : Bool :=
  x == .standby || x == .waking || x == .idle || x == .queued || x == .inRun

/-- What a head needs its link for (R146, R147, R149, R151); a head is IN_RUN exactly when it is in the group (R89); it
has at most one queue entry, and only while QUEUED, at most one job, and only while ANALYSIS (R63, R83); a wake is
pending only in STANDBY with the slot busy (R154), and a bin frame is present exactly in BIN_WAIT (R161). -/
structure HeadLaws (s : State) : Prop where
  linked : ∀ h, (s.head h).state.onLink = true → (s.head h).link = .locked
  offline : ∀ h, (s.head h).state = .offline → (s.head h).link ≠ .locked
  supplied : ∀ h, (s.head h).supply ≠ .off → (s.head h).link = .locked
  serviced : ∀ h, (s.head h).slot.isSome = true → (s.head h).link = .locked
  wakes : ∀ h, (s.head h).pendingWake.isSome = true → (s.head h).state = .standby ∧ (s.head h).slot.isSome = true
  grouped : ∀ h, (s.head h).state = .inRun ↔ s.inGroup h = true
  queued : ∀ e ∈ s.arbiter.queue, (s.head e.head).state = .queued
  entries : (s.arbiter.queue.map QueueEntry.head).Nodup
  analysed : ∀ j ∈ s.alloc.jobs, (s.head j.head).state = .analysis
  jobs : (s.alloc.jobs.map Job.head).Nodup
  frames : ∀ h, (s.bin h).frame.isSome = true ↔ (s.head h).state = .binWait

/-- The parked set of head `h` in the level at a depth, the first opened at depth 1 (R111). -/
def GateUnit.parkedAt (g : GateUnit) (depth : Nat) (h : HeadId) : SiteSet :=
  match depth with
  | 0 => 0
  | d + 1 => ((g.levels.reverse[d]?).map fun l => l.parked[h]).getD 0

/-- A site is TESTING, PARKED or DROPPED only while its head is IN_RUN (R46, R54), and not before the ACCEPT (R48); it is
PARKED at a depth exactly when the level at that depth holds it in its parked set (R46, R53, R124). -/
structure SiteLaws (s : State) : Prop where
  playing : ∀ h i, (s.site h i).inPlay = true → (s.head h).state = .inRun
  waiting : s.run.state = .starting → ∀ h i, (s.site h i).inPlay = false
  parked : ∀ h i, ∀ d, (s.gates.parkedAt d h).getLsbD i.val = true ↔
    (s.site h i).state = .parked ∧ (s.site h i).parkLevel = some d

/-- The tag of the request of a service of host origin. -/
def Service.owes (sv : Service) : List Byte :=
  match sv.origin with
  | .host tag => [tag]
  | .internal => []

/-- The tag of the request of a job of host origin. -/
def Job.owes (j : Job) : List Byte :=
  match j.origin with
  | .host tag => [tag]
  | .auto => []

/-- The tags of the requests whose reply waits or is still to be made: by the reply list, by a service, by a job and
by a pending FEED_RESET (R176). -/
def State.owed (s : State) : List Byte :=
  (s.port.replies.filter Reply.accepted).map Reply.tag ++
    (allHeads.flatMap fun h => ((s.head h).slot.map Service.owes).getD []) ++ s.alloc.jobs.flatMap Job.owes ++
    s.run.resetPending.toList

/-- Every request that an owner has taken is owed exactly one reply, and no other is owed one; the requests taken
stand first in the window; and a frame being sent that still stands in its list stands first there (R175, R177). -/
structure AnswerLaws (s : State) : Prop where
  once : s.owed.Perm ((s.port.window.filter fun e => e.stage == .taken).map fun e => e.request.tag)
  inOrder : s.port.window.Pairwise fun a b => b.stage = .taken → a.stage = .taken
  replying : ∀ r, s.port.sending = some ⟨.reply r, true⟩ → s.port.replies.head? = some r
  notifying : ∀ n, s.port.sending = some ⟨.notice n, true⟩ → s.port.notices.head? = some n

/-- What the sites of a head are in each head state: enabled exactly when not OFF (R47); with a plan slot, a run number
and spares exactly when neither OFF nor READY (R44), those of the run while the head is IN_RUN, the same ones for all
sites of a head in ANALYSIS or BIN_WAIT (R48, R56); in no run before the grant; in play or at rest while IN_RUN, none of
them READY once the run has started; ENDED, INCOMPLETE or RESOLVED in ANALYSIS; and RESOLVED in BIN_WAIT (the eleventh
law). A head that was granted has an enabled site (R87). -/
structure PlaceLaws (s : State) : Prop where
  enabled : ∀ h i, (s.site h i).state = .off ↔ (s.head h).enableSet.getLsbD i.val = false
  entered : ∀ h i, (s.site h i).entry = none ↔ (s.site h i).atRest = true
  waiting : ∀ h i, (s.head h).state ≠ .inRun → (s.head h).state ≠ .analysis → (s.head h).state ≠ .binWait →
    (s.site h i).atRest = true
  playing : ∀ h i, (s.head h).state = .inRun → (s.site h i).atRest = true ∨ (s.site h i).inPlay = true
  started : ∀ h i, (s.head h).state = .inRun → s.run.state ≠ .starting → s.run.state ≠ .halting →
    (s.site h i).state ≠ .ready
  analysing : ∀ h i, (s.head h).state = .analysis → (s.site h i).state = .off ∨ (s.site h i).state = .ended ∨
    (s.site h i).state = .incomplete ∨ (s.site h i).state = .resolved
  delivering : ∀ h i, (s.head h).state = .binWait → (s.site h i).state = .off ∨ (s.site h i).state = .resolved
  current : ∀ h i e, (s.head h).state = .inRun → (s.site h i).entry = some e →
    s.run.slot = some e.slot ∧ e.runNumber = s.run.runNumber
  together : ∀ h i j e f, (s.head h).state = .analysis ∨ (s.head h).state = .binWait →
    (s.site h i).entry = some e → (s.site h j).entry = some f → e.slot = f.slot ∧ e.runNumber = f.runNumber
  peopled : ∀ h, (s.head h).state = .inRun ∨ (s.head h).state = .analysis ∨ (s.head h).state = .binWait →
    (s.head h).enableSet ≠ 0

/-- The twelfth law: each use count is the number of heads that are QUEUED, IN_RUN, ANALYSIS or BIN_WAIT with the plan,
and a plan in use is LOADED (R38); a run has a plan slot (R91), and a QUEUED head an entry (R83). -/
structure PlanLaws (s : State) : Prop where
  running : s.run.state ≠ .none → s.run.slot ≠ none
  queued : ∀ h, (s.head h).state = .queued → ∃ e ∈ s.arbiter.queue, e.head = h
  counted : ∀ i, s.useCount i = (allHeads.filter fun h => s.headSlot h == some i).length
  loaded : ∀ i, s.useCount i ≠ 0 → s.planAt i ≠ none

/-- The ROW_LINE entries of a site and region. -/
def FailTable.rowLines (h : HeadId) (i : SiteId) (k : Nat) (t : FailTable) : Nat :=
  (t.filter fun x => x.2.ofRegion h i k && match x.2.key with
    | .rowLine _ => true
    | _ => false).length

/-- The COL_LINE entries of a site and region. -/
def FailTable.colLines (h : HeadId) (i : SiteId) (k : Nat) (t : FailTable) : Nat :=
  (t.filter fun x => x.2.ofRegion h i k && match x.2.key with
    | .colLine _ => true
    | _ => false).length

/-- No site holds more entries than the quota of its plan (the third law, R3); a site has a pair of spare counters for
each region of its plan (R31), and until it is marked no_repair the spares left and the lines of each region make up
the spares of the region (the fourth law, R14). -/
structure SpareLaws (s : State) : Prop where
  quota : ∀ h i p, s.sitePlan (s.site h i) = some p → (s.site h i).entriesHeld ≤ p.quota
  pairs : ∀ h i e p, (s.site h i).entry = some e → s.planAt e.slot = some p → e.spares.length = p.regions.length
  balance : ∀ h i e p, (s.site h i).entry = some e → s.planAt e.slot = some p → (s.site h i).noRepair = false →
    ∀ k sp r, e.spares[k]? = some sp → p.regions[k]? = some r →
      sp.rows + s.capture.table.rowLines h i k = r.spareRows ∧
        sp.columns + s.capture.table.colLines h i k = r.spareColumns

/-- The engine serves the oldest job and has used no more than its budget (R66, R73). -/
structure EngineLaws (s : State) : Prop where
  serving : ∀ e, s.alloc.engine = some e → ∃ job rest, s.alloc.jobs = job :: rest ∧ e.used ≤ job.budget.toNat
  idle : s.alloc.engine = none → s.alloc.jobs = []

end Sys2Proof.Machine
end

