-- ==== Sys2Proof/Certificates/Slice0/Obligations.lean ====
section
/-!
DEFINITION. The statements about the model for the provers. Each names the rules it follows; a clause that rests on a
choice of the model names its log entry. A conclusion `exec c s = .next t` with `t` written out says at once that the
command completes, what it changes and that nothing else changes.
-/

open Sys2Proof Sys2Proof.Machine

/-! ## The queue of commands -/

/-- A step is exec of the command at the front of the queue on the state with the queue's rest (log 1). -/
def Obligations.StepRunsTheFrontCommand : Prop :=
  ∀ (c : Instr) (rest : List Instr) (s : State), step (s.withPending (c :: rest)) = exec c (s.withPending rest)

/-- Every command has a next state in every state, and no command touches the queue. On an empty queue the part idles
(log 2), but for a raise that waits: then the Run Controller takes the oldest one (log 29), and with it the raise of
the same word that follows it, so that no event comes between the two (R19, R133). -/
def Obligations.EveryCommandHasANextState : Prop :=
  (∀ (c : Instr) (s : State), ∃ t, exec c s = .next t ∧ t.pending = s.pending) ∧
    ∀ s : State, s.pending = [] → (s.capture.raises = [] → step s = .next s) ∧
      ∀ r same rest, s.capture.raises = r :: (same ++ rest) → (∀ x ∈ same, x.follows = true) →
        (∀ x, rest.head? = some x → x.follows = false) →
        step s = .next (same.foldl (fun (t : State) x => t.takeRaise x)
          (({ s with capture := { s.capture with raises := rest } }).takeRaise r)).emit

/-! ## How a request reaches its owner -/

/-- A request command that is not at its owner is the coming in of its frame, and no block but the port changes:
between two frames the entry checks take it; in a frame that was broken off its bytes complete that one (R172, log 4).
The owner takes the first request of the window that is not yet taken; with none waiting it takes a request whose
frame arrives between two frames and is accepted; it takes no other (R175, log 4). The body of every request command
has a size that its kind allows (R186). A request whose head field is above 3 is refused with BAD_VALUE, and nothing
else happens (R185). -/
def Obligations.RequestsReachTheirOwnersInOrder : Prop :=
  ((∀ (c : Instr) (q : Request) (s : State), requestOf c = some q → s.port.offer q = none →
    (s.port.framer = .hunt ∨ s.port.framer = .synced →
      exec c s = .next { s with port := (s.port.arrive q).transmit }) ∧
    ∀ bytes, s.port.framer = .inFrame bytes → exec c s =
      .next { s with port := ((controlFrame q.kind q.tag q.body).foldl ControlPort.receive s.port).transmit }) ∧
  ((∀ (p : ControlPort) (q : Request) (pre post : List WindowEntry) (stage : Stage), PortLaws p →
    p.window = pre ++ ⟨q, stage⟩ :: post → (∀ e ∈ pre, e.stage = .taken) → stage ≠ .taken →
      p.offer q = some { p with window := pre ++ ⟨q, .taken⟩ :: post }) ∧
  (∀ (p : ControlPort) (q : Request), (∀ e ∈ p.window, e.stage = .taken) → q.tag ≠ 0 → p.window.length < 8 →
    (∀ e ∈ p.window, e.request.tag ≠ q.tag) → allowedSize q.kind q.body.length = true →
      (p.framer = .hunt ∨ p.framer = .synced →
        p.offer q = some { p with framer := .synced, window := p.window ++ [⟨q, .taken⟩] }) ∧
      ∀ bytes, p.framer = .inFrame bytes → p.offer q = none) ∧
  ∀ (p : ControlPort) (q : Request) (pre post : List WindowEntry) (first : WindowEntry),
    p.window = pre ++ first :: post → (∀ e ∈ pre, e.stage = .taken) → first.stage ≠ .taken → first.request ≠ q →
      p.offer q = none)) ∧
  ((∀ (c : Instr) (q : Request), requestOf c = some q → allowedSize q.kind q.body.length = true) ∧
  (∀ (c : Instr) (q : Request) (p : ControlPort) (s : State) (h : Byte), s.AtOwner c q p → headField c = some h →
    3 < h.toNat → exec c s = .next (s.answered p q .badValue [])))

/-! ## Resets -/

/-- Power-on reset: the port empty with the framer in HUNT, and every other block at its power-on state (R184). That
the lines START and BCLK, the record of what was sent and the waiting commands stay is the model's choice (log 9, log
10). Power-on reset and PART_RESET both leave all 128 Site Contexts OFF with nothing in them, every enable set empty
(R62) and the Fail Table FREE (R25). -/
def Obligations.ResetsLeaveThePowerOnState : Prop :=
  (∀ s : State, ∃ t, exec .powerOnReset s = .next t ∧
    t.port.framer = .hunt ∧ t.port.window = [] ∧ t.port.replies = [] ∧ t.port.notices = [] ∧
    t.port.overrunPending = false ∧ t.port.flags = 0 ∧ t.port.config = ⟨1000, true, true, true⟩ ∧
    t.port.sending = none ∧ t.port.nextFrame = none ∧
    (∀ i : Fin 8, t.store.slots[i] = ⟨none, 0⟩ ∧ (t.store.classMap[i]).val = i.val / 2) ∧
    (∀ h, t.head h = HeadContext.reset (s.lines[h]).start) ∧ t.arbiter = ⟨[], true⟩ ∧ t.run = .reset ∧
    t.gates = .reset ∧ t.capture.table = [] ∧ t.capture.raises = [] ∧ (∀ k : Fin 4, t.capture.watches[k] = .reset) ∧
    (∀ h i, t.site h i = .blank .off) ∧ t.alloc = ⟨[], none⟩ ∧ (∀ h, t.bin h = .reset) ∧
    State.SameBut [.port, .store, .heads, .arbiter, .run, .gates, .capture, .sites, .alloc, .bins] s t) ∧
  ((∀ s : State, ∃ t, exec .powerOnReset s = .next t ∧
    (∀ h i, t.site h i = .blank .off) ∧ (∀ h, (t.head h).enableSet = 0) ∧ t.capture.table = []) ∧
  ∀ (tag : Byte) (q : Request) (p : ControlPort) (s : State), s.AtOwner (.partReset tag) q p →
    ∃ t, exec (.partReset tag) s = .next t ∧
      (∀ h i, t.site h i = .blank .off) ∧ (∀ h, (t.head h).enableSet = 0) ∧ t.capture.table = [])

/-- PART_RESET: the requests accepted before it are gone and those after it stay, its own reply alone is listed, the
notices, flags and configuration are at their reset values, a frame being sent goes on, and the other blocks are as
after power-on reset (R183). That the kind of frame sent last is kept is the model's choice (log 7). -/
def Obligations.PartResetKeepsWhatWasAcceptedAfterIt : Prop :=
  ∀ (tag : Byte) (q : Request) (p : ControlPort) (s : State) (pre post : List WindowEntry),
    s.AtOwner (.partReset tag) q p → PortLaws p → p.window = pre ++ ⟨q, .taken⟩ :: post →
    ∃ t u, exec (.partReset tag) s = .next t ∧ exec .powerOnReset s = .next u ∧
      t = { u with
            port := { p with
                      window := ⟨q, .taken⟩ :: post
                      replies := [⟨q.kind, q.tag, .ok, [], true⟩]
                      notices := [], overrunPending := false, flags := 0, config := ⟨1000, true, true, true⟩
                      sending := match p.sending with
                        | some x => some { x with listed := false }
                        | none => some ⟨.reply ⟨q.kind, q.tag, .ok, [], true⟩, true⟩ } }

/-! ## The receive framer -/

/-- A byte outside a frame that is not A5h is discarded: in HUNT nothing else happens, in SYNCED the framer goes to
HUNT with FRAME_ERROR set; A5h begins a frame from either (R172). A frame with an impossible length is discarded when
its length has arrived, and a frame whose CRC differs when its CRC has: FRAME_ERROR is set, the framer hunts, and no
request enters (R173). The CRC of "123456789" is 29B1h. -/
def Obligations.BytesAndFramesTheFramerDiscards : Prop :=
  (∀ (b : Byte) (s : State),
    (s.port.framer = .hunt → b ≠ 0xA5#8 → exec (.controlByteDiscard b) s = .next s.emit) ∧
    (s.port.framer = .synced → b ≠ 0xA5#8 → exec (.controlByteDiscard b) s =
      .next ({ s with port := { s.port with framer := .hunt, flags := s.port.flags ||| PartFlag.frameError } }).emit) ∧
    (s.port.framer = .hunt ∨ s.port.framer = .synced → b = 0xA5#8 → exec (.controlFrameReceive [b]) s =
      .next ({ s with port := { s.port with framer := .inFrame [] } }).emit)) ∧
  (crc16 [0x31, 0x32, 0x33, 0x34, 0x35, 0x36, 0x37, 0x38, 0x39] = 0x29B1#16 ∧
  ∀ s : State, s.port.framer = .hunt ∨ s.port.framer = .synced →
    let lost := ({ s with port := { s.port with framer := .hunt, flags := s.port.flags ||| PartFlag.frameError } }).emit
    (∀ hi lo : Byte, (half hi lo).toNat < 2 ∨ 1026 < (half hi lo).toNat →
      exec (.controlFrameReceive [0xA5#8, hi, lo]) s = .next lost) ∧
    ∀ (kind tag crcHi crcLo : Byte) (body : List Byte), body.length ≤ 1024 →
      [crcHi, crcLo] ≠ be16 (crc16 (be16OfNat (body.length + 2) ++ kind :: tag :: body)) →
      exec (.controlFrameReceive (0xA5#8 :: (be16OfNat (body.length + 2) ++ kind :: tag :: body ++ [crcHi, crcLo]))) s =
        .next lost)

/-- A whole frame of kind, tag and body, built as the part builds its own frames, passes the framer whatever its bytes
and reaches the entry checks (R172, R173). -/
def Obligations.GoodFramesReachTheEntryChecks : Prop :=
  ∀ (kind tag : Byte) (body : List Byte) (s : State), s.port.framer = .hunt ∨ s.port.framer = .synced →
    body.length ≤ 1024 →
      exec (.controlFrameReceive (controlFrame kind tag body)) s =
        .next { s with port := (s.port.arrive ⟨tag, kind, body⟩).transmit }

/-- The entry checks of a good frame in their order: tag 0, a tag in the window, 8 requests in the window, a kind or
size that is not allowed; otherwise it is accepted. A refusal that finds 8 waiting is discarded with FRAME_ERROR
(R174); that a refusal being sent counts among the 8 is the model's reading (log 5). -/
def Obligations.EntryChecksDecideInOrder : Prop :=
  ∀ (p : ControlPort) (q : Request) (good full held : Bool),
    (good = true ↔ allowedSize q.kind q.body.length = true) → (full = true ↔ 8 ≤ p.window.length) →
    (held = true ↔ ∃ e ∈ p.window, e.request.tag = q.tag) →
    let refused := fun st : Status =>
      if p.refusals < 8 then { p with framer := .synced, replies := p.replies ++ [⟨q.kind, q.tag, st, [], false⟩] }
      else { p with framer := .synced, flags := p.flags ||| PartFlag.frameError }
    (q.tag = 0 → p.arrive q = refused .badRequest) ∧
    (q.tag ≠ 0 → held = true → p.arrive q = { p with framer := .synced, flags := p.flags ||| PartFlag.tagClash }) ∧
    (q.tag ≠ 0 → held = false → full = true → p.arrive q = refused .busy) ∧
    (q.tag ≠ 0 → held = false → full = false → good = false → p.arrive q = refused .badRequest) ∧
    (q.tag ≠ 0 → held = false → full = false → good = true →
      p.arrive q = { p with framer := .synced, window := p.window ++ [⟨q, .accepted⟩] })

/-! ## The window and the transmitter -/

/-- REQUEST_HAND_ON hands on the next accepted request, once the owner has taken the one before (R175). The last byte
of a frame leaves: the frame's bytes have been sent, the request of a reply leaves the window (R175), a notice leaves
the front of the Notice Queue (R178), and a reply leaves the front of the reply list, which is the model's reading
(log 5); a frame that a PART_RESET has unlisted changes no list (R177, R183). The bytes of what the part sends, most
significant byte first: replies and the six notices in the envelope of the Control Link with its CRC (11.2, 11.3,
R173, R179), the frames to a head with their check byte (11.4, R187, R188), of an UNPARK above depth 65535 the low 16
bits (log 27), and the messages to the source (11.5). -/
def Obligations.RequestsAreHandedOnAndReplied : Prop :=
  (∀ (s : State),
    (∀ (pre post : List WindowEntry) (q : Request), s.port.window = pre ++ ⟨q, .accepted⟩ :: post →
      (∀ e ∈ pre, e.stage = .taken) → (∀ e ∈ post, e.stage = .accepted) →
      exec .requestHandOn s = .next { s with port := { s.port with window := pre ++ ⟨q, .handedOn⟩ :: post } }) ∧
    ((∃ e ∈ s.port.window, e.stage = .handedOn) → exec .requestHandOn s = .next s)) ∧
  (∀ s : State,
    (s.port.sending = none → exec .frameSent s = .next s) ∧
    ∀ (f : HostFrame) (listed : Bool), s.port.sending = some ⟨f, listed⟩ →
      ∃ p : ControlPort, exec .frameSent s =
          .next ({ s with port := p, wire := { s.wire with toHost := s.wire.toHost ++ [f.bytes] } }).emit ∧
        p.sending = none ∧ p.lastSent = some f.cls ∧
        (∀ r, f = .reply r → listed = true → p.replies = s.port.replies.tail ∧ p.notices = s.port.notices ∧
          p.window = if r.accepted then s.port.window.filter fun e => e.request.tag != r.tag else s.port.window) ∧
        (∀ n, f = .notice n → listed = true → p.replies = s.port.replies ∧ p.notices = s.port.notices.tail ∧
          p.window = s.port.window) ∧
        (listed = false → p.replies = s.port.replies ∧ p.notices = s.port.notices ∧ p.window = s.port.window) ∧
        p.framer = s.port.framer ∧ p.overrunPending = s.port.overrunPending ∧ p.flags = s.port.flags ∧
        p.config = s.port.config) ∧
  (let two := fun x : Half => [x.extractLsb' 8 8, x.extractLsb' 0 8]
   let four := fun x : Quad => [x.extractLsb' 24 8, x.extractLsb' 16 8, x.extractLsb' 8 8, x.extractLsb' 0 8]
   let byte := fun n : Nat => BitVec.ofNat 8 n
   let count := fun n : Nat => two (BitVec.ofNat 16 n)
   let envelope := fun (kind tag : Byte) (body : List Byte) =>
     let covered := count (body.length + 2) ++ kind :: tag :: body
     0xA5#8 :: (covered ++ two (crc16 covered))
   let checked := fun (kind : Byte) (body : List Byte) =>
     let counted := kind :: (count body.length ++ body)
     counted ++ [counted.foldl (· ^^^ ·) 0#8]
   (∀ r : Reply, (HostFrame.reply r).bytes = envelope r.kind r.tag (r.status.code :: r.fields)) ∧
   (∀ (overrun : Bool) (n : Notice),
     let noticed := fun (kind : Byte) (rest : List Byte) =>
       envelope kind 0#8 ((if overrun then 1#8 else 0#8) :: rest)
     (HostFrame.notice ⟨overrun, n⟩).bytes = match n with
       | .runStarted run slot group => noticed 0x80#8 (two run ++ [byte slot.val, group.setWidth 8])
       | .runHeld run ret hold => noticed 0x81#8 (two run ++ ret.code :: hold.bytes)
       | .runEnded run abort word => noticed 0x82#8 (two run ++ (match abort with
           | none => [0#8, 0#8]
           | some .host => [1#8, 1#8]
           | some .feed => [1#8, 2#8]
           | some .groupEmpty => [1#8, 3#8]) ++ two (word.setWidth 16))
       | .headEvent h flags state => noticed 0x83#8 (byte h.val :: (two (flags.setWidth 16) ++ [state.code]))
       | .analysisDone h resolved incomplete used =>
         noticed 0x84#8 (byte h.val :: byte resolved :: byte incomplete :: count used)
       | .watchHit h i bank row column entries =>
         noticed 0x85#8 (byte h.val :: byte i.val :: bank :: (two row ++ two column ++ [entries.setWidth 8]))) ∧
   (∀ f : HeadFrame, f.bytes = match f with
     | .feed (.block payload) => checked 0x01#8 (0x13#8 :: (count payload.length ++ payload))
     | .feed (.gateOpen limit) => checked 0x01#8 (0x14#8 :: 0#8 :: 2#8 :: two limit)
     | .feed .gateClose => checked 0x01#8 [0x15#8, 0#8, 0#8]
     | .feed .endRecord => checked 0x01#8 [0x16#8, 0#8, 0#8]
     | .runBegin run active => checked 0x02#8 (two run ++ four active)
     | .runStop => checked 0x03#8 []
     | .park depth pass set => checked 0x04#8 (byte depth :: (count pass ++ four set))
     | .unpark depth set => checked 0x05#8 (count depth ++ four set)
     | .drop depth set => checked 0x06#8 (byte depth :: four set)
     | .service number op => checked 0x07#8 (number :: match op with
         | .supplyOn => [1#8, 0#8, 0#8, 0#8]
         | .supplyOff => [2#8, 0#8, 0#8, 0#8]
         | .headRead register => [3#8, register, 0#8, 0#8]
         | .headWrite register value => 4#8 :: register :: two value
         | .headSleep => [5#8, 0#8, 0#8, 0#8]
         | .headWake _ => [6#8, 0#8, 0#8, 0#8])) ∧
   ∀ m : SourceMessage, m.bytes = match m with
     | .start run pattern => 0x01#8 :: 0#8 :: 6#8 :: (two run ++ four pattern)
     | .decideRepeat => [0x02#8, 0#8, 1#8, 0#8]
     | .decideExit => [0x02#8, 0#8, 1#8, 1#8]
     | .pause => [0x03#8, 0#8, 0#8]
     | .continue => [0x04#8, 0#8, 0#8]
     | .halt => [0x05#8, 0#8, 0#8]
     | .linkReset => [0x06#8, 0#8, 0#8])

/-- A free transmitter with frames of both kinds waiting begins the oldest of the kind it did not send last; with one
kind waiting, the oldest of that kind; a frame that has begun goes on (R177). Before any frame was sent, either kind
may go first (log 6). A notice joins the back of the queue with the pending overrun mark, which is cleared; with 32
held it is lost, NOTICE_OVERRUN is set and the mark is pending (R178). At the end of a step one HEAD_EVENT notice is
queued for each head with a flag that the step set and whose notice is enabled; it carries those flags and the head
state, and none is queued for a head without such a flag (R158). That they come at the end of the step, in ascending
head number and before a grant, is the model's choice (log 8). -/
def Obligations.TheTransmitterAndTheNoticeQueue : Prop :=
  (∀ (p : ControlPort),
    (∀ x, p.sending = some x → p.transmit = p) ∧
    (p.sending = none →
      (p.replies = [] → p.notices = [] → p.transmit = p) ∧
      (∀ r rs, p.replies = r :: rs → p.notices = [] ∨ p.lastSent = some .notice →
        p.transmit = { p with sending := some ⟨.reply r, true⟩ }) ∧
      (∀ n ns, p.notices = n :: ns → p.replies = [] ∨ p.lastSent = some .reply →
        p.transmit = { p with sending := some ⟨.notice n, true⟩ }) ∧
      ∀ r rs n ns, p.replies = r :: rs → p.notices = n :: ns → p.lastSent = none →
        p.transmit = { p with sending := some ⟨.reply r, true⟩ } ∨
          p.transmit = { p with sending := some ⟨.notice n, true⟩ })) ∧
  (∀ (n : Notice) (s : State),
    (s.port.notices.length < 32 → s.queueNotice n = { s with
      port := { s.port with notices := s.port.notices ++ [⟨s.port.overrunPending, n⟩], overrunPending := false } }) ∧
    (32 ≤ s.port.notices.length → s.queueNotice n = { s with
      port := { s.port with flags := s.port.flags ||| PartFlag.noticeOverrun, overrunPending := true } })) ∧
  (∀ s : State,
    let shown := fun h : HeadId => (s.head h).raised &&& (s.head h).notices
    s.report = ({ (allHeads.filter fun h => shown h != 0).foldl
        (fun t h => t.queueNotice (.headEvent h (shown h) (s.head h).state)) s with
      heads := Vector.ofFn fun h => { s.heads[h] with raised := 0 } } : State).emit ∧
    s.settle.port = s.report.port)

/-! ## Reads -/

/-- IDENTIFY answers the part code 4832h, revision 3, 4 heads, 32 sites, 4096 entries and 8 plan slots; STATUS answers
the state of the part in 32 bytes, an unused queue entry being four zero bytes. Neither changes anything (R182, R186).
HEAD_STATUS answers the Head Context in 24 bytes and clears no flag (R159, R186). RUN_STATUS answers the Run Record
and the Gate Stack in 56 bytes, a field that is absent as zero bytes, and changes nothing (R141, R127, R186). The Hold
Record is 17 bytes, with zero bytes for a detail that its cause does not carry (11.3, R134, R185). The codes of the
enumerations are those of Table 11-1 (R185), and an outcome's is its place in the Outcome Map (R164). -/
def Obligations.StatusRequestsAnswerTheirRecords : Prop :=
  (((∀ tag : Byte, WhenTaken (.identify tag) fun q p s => exec (.identify tag) s =
    .next (s.answered p q .ok [0x48#8, 0x32#8, 3#8, 4#8, 32#8, 0x10#8, 0x00#8, 8#8])) ∧
  ∀ tag : Byte, WhenTaken (.status tag) fun q p s => ∃ f : List Byte,
    exec (.status tag) s = .next (s.answered p q .ok f) ∧ f.length = 32 ∧
    f.take 5 = s.run.state.code :: be16 (if s.run.state = .none then 0 else s.run.runNumber) ++
      [s.run.group.setWidth 8, byteOf s.arbiter.queue.length] ∧
    (∀ k < 4, (f.drop (5 + 4 * k)).take 4 = match s.arbiter.queue[k]? with
      | some e => [byteOf e.head.val, byteOf e.slot.val, byteOf e.planClass.val, byteOf e.level.val]
      | none => [0, 0, 0, 0]) ∧
    f.drop 21 = boolByte s.arbiter.enabled :: (allHeads.map fun h => (s.head h).state.code) ++
      [boolByte (!s.run.linkReady), boolByte s.run.resetPending.isSome] ++
      be16OfNat (4096 - s.capture.table.length) ++ [byteOf p.window.length, byteOf p.notices.length]) ∧
  (∀ (tag : Byte) (h : HeadId), WhenTaken (.headStatus tag (byteOf h.val)) fun q p s =>
    let c := s.head h
    exec (.headStatus tag (byteOf h.val)) s = .next (s.answered p q .ok
      ([c.state.code, boolByte c.linkEnable, boolByte c.losDetect, c.alignMode.code, c.link.code,
        byteOf c.aligner.val, c.supply.code] ++
      (match c.slot with
        | none => [0#8, 0#8]
        | some ⟨op, .host _, _, _⟩ => [op.code, 0#8]
        | some ⟨op, .internal, _, _⟩ => [op.code, 1#8]) ++
      [match c.pendingWake with
        | none => 0#8
        | some false => 1#8
        | some true => 2#8,
        c.polarity.code, c.width.code, boolByte c.wakeOnStart, boolByte c.autoQueue,
        match c.defaultSlot with
        | none => 0xFF#8
        | some i => byteOf i.val,
        match c.recognised with
        | .low => 0#8
        | .high => 1#8] ++
      be32 c.enableSet ++ be16 (c.flags.setWidth 16) ++ be16 (c.notices.setWidth 16))))) ∧
  (∀ tag : Byte, WhenTaken (.runStatus tag) fun q p s => ∃ f : List Byte,
    exec (.runStatus tag) s = .next (s.answered p q .ok f) ∧ f.length = 56 ∧
    f.take 9 = be16 s.run.runNumber ++ [s.run.state.code] ++ be32 s.run.recordCount ++
      be16 (s.run.exceptions.setWidth 16) ∧
    (f.drop 9).take 8 = [optCode (fun i => byteOf i.val) s.run.slot, s.run.group.setWidth 8, s.run.masks.setWidth 8,
      optCode RunState.code s.run.returnState, boolByte s.run.paused, byteOf s.run.buffer.length,
      (if s.run.state = .draining ∨ (s.run.state = .held ∧ s.run.returnState = some .draining) then s.run.tallied
        else 0).setWidth 8, optCode RunAbort.code s.run.abortCause] ∧
    (f.drop 17).take 2 = (match s.run.startFailure with
      | none => [0#8, 0#8]
      | some (.decline reason) => [1#8, reason]
      | some .timeout => [2#8, 0#8]) ∧
    (f.drop 19).take 17 = (match s.run.hold with
      | some r => r.bytes
      | none => List.replicate 17 0#8) ∧
    (f.drop 36).take 3 = byteOf s.gates.levels.length :: be16OfNat s.gates.phantom ∧
    (∀ k < 4, (f.drop (39 + 4 * k)).take 4 = match s.gates.levels.reverse[k]? with
      | some l => be16OfNat l.limit ++ be16OfNat l.passCount
      | none => [0, 0, 0, 0]) ∧
    f.drop 55 = [(if s.run.state = .deciding ∨ (s.run.state = .held ∧ s.run.returnState = some .deciding)
      then s.collectedSet else 0).setWidth 8]) ∧
  (∀ r : HoldRecord,
    let two := fun x : Half => [x.extractLsb' 8 8, x.extractLsb' 0 8]
    let n := r.recordCount
    r.bytes = [match r.raised.cause with
        | .gateOverflow => 0#8
        | .gateUnderflow => 1#8
        | .tableFull => 2#8
        | .quota => 3#8
        | .unmapped => 4#8
        | .tallyLate => 5#8
        | .watch => 6#8,
        if r.more then 1#8 else 0#8,
        n.extractLsb' 24 8, n.extractLsb' 16 8, n.extractLsb' 8 8, n.extractLsb' 0 8, BitVec.ofNat 8 r.gateDepth] ++
      two (BitVec.ofNat 16 r.phantomDepth) ++
      [(r.raised.head.map fun h => BitVec.ofNat 8 h.val).getD 0#8,
        (r.raised.site.map fun i => BitVec.ofNat 8 i.val).getD 0#8,
        (r.raised.region.map fun k => BitVec.ofNat 8 k).getD 0#8] ++
      two (r.raised.row.getD 0#16) ++ two (r.raised.column.getD 0#16) ++
      [(r.raised.missing.map fun m => m.setWidth 8).getD 0#8]) ∧
  ([Status.ok, .busy, .badRequest, .badValue, .wrongState, .inUse, .duplicate, .slotBusy, .conflict, .noAnswer,
      .abandoned].map Status.code = [0#8, 1#8, 2#8, 3#8, 4#8, 5#8, 6#8, 7#8, 8#8, 9#8, 10#8] ∧
    [SiteState.off, .ready, .testing, .parked, .dropped, .ended, .incomplete, .resolved].map SiteState.code =
      [0#8, 1#8, 2#8, 3#8, 4#8, 5#8, 6#8, 7#8] ∧
    [SiteOutcome.pass, .repaired, .noRepair, .strictFail, .captureLost, .matchExpired, .aborted, .unresolved].map
      SiteOutcome.index = [0, 1, 2, 3, 4, 5, 6, 7] ∧
    [AbortCause.link, .supply, .tally, .host, .reset, .feed].map AbortCause.code = [1#8, 2#8, 3#8, 4#8, 5#8, 6#8] ∧
    [HeadState.offline, .standby, .waking, .idle, .queued, .inRun, .analysis, .binWait].map HeadState.code =
      [0#8, 1#8, 2#8, 3#8, 4#8, 5#8, 6#8, 7#8] ∧
    [RunState.none, .starting, .streaming, .deciding, .draining, .held, .halting].map RunState.code =
      [0#8, 1#8, 2#8, 3#8, 4#8, 5#8, 6#8] ∧
    [RunAbort.host, .feed, .groupEmpty].map RunAbort.code = [1#8, 2#8, 3#8] ∧
    [LinkState.off, .seeking, .locked, .lost].map LinkState.code = [0#8, 1#8, 2#8, 3#8] ∧
    [SupplyState.off, .ramping, .on, .falling, .fault].map SupplyState.code = [0#8, 1#8, 2#8, 3#8, 4#8] ∧
    [Policy.analyse, .strict, .ignore].map Policy.code = [0#8, 1#8, 2#8] ∧
    [Expiry.drop, .continue].map Expiry.code = [0#8, 1#8] ∧
    [AlignMode.mark, .manual].map AlignMode.code = [0#8, 1#8] ∧
    [Polarity.falling, .rising].map Polarity.code = [0#8, 1#8] ∧
    [RejectWidth.off, .us250, .ms1, .ms4].map RejectWidth.code = [0#8, 1#8, 2#8, 3#8] ∧
    [StaleTimer.stopped, .running, .expired].map StaleTimer.code = [0#8, 1#8, 2#8] ∧
    [Phase.closure, .search].map Phase.code = [1#8, 2#8] ∧
    ∀ (register : Byte) (value : Half) (mark : Bool),
      [ServiceOp.supplyOn, .supplyOff, .headRead register, .headWrite register value, .headSleep, .headWake mark].map
        ServiceOp.code = [1#8, 2#8, 3#8, 4#8, 5#8, 6#8])

/-- BIN_CONFIG outside BIN_WAIT stores the format and the timeout and moves BDATA to the idle level of the format; in
BIN_WAIT it is refused. BIN_RELEASE in BIN_WAIT withdraws the frame with BIN_ABANDONED and releases the head's sites
as a delivery does; elsewhere it is refused (R162, R169). BIN_STATUS answers the format, the bin timeout, whether a
frame is present, and its shift position, the stale timer and its 19 bytes, which are zero bytes without a frame, and
changes nothing (R171, R185, R186). -/
def Obligations.BinRequestsConfigureReleaseAndRead : Prop :=
  ((∀ (tag format timeout : Byte) (h : HeadId), WhenTaken (.binConfig tag (byteOf h.val) format timeout) fun q p s =>
    let run := exec (.binConfig tag (byteOf h.val) format timeout) s
    (3 < format.toNat → run = .next (s.answered p q .badValue [])) ∧
    ∀ f : Fin 4, format = byteOf f.val →
      ((s.head h).state = .binWait → run = .next (s.answered p q .wrongState [])) ∧
      ((s.head h).state ≠ .binWait → run = .next ((s.answered p q .ok []).onBin h fun b =>
        { b with format := f, timeout := timeout, bdata := if f.val < 2 then .low else .high }))) ∧
  ∀ (tag : Byte) (h : HeadId), WhenTaken (.binRelease tag (byteOf h.val)) fun q p s =>
    ((s.head h).state ≠ .binWait →
      exec (.binRelease tag (byteOf h.val)) s = .next (s.answered p q .wrongState [])) ∧
    ((s.head h).state = .binWait → exec (.binRelease tag (byteOf h.val)) s =
      .next ((s.replied p q .ok []).leaveBinWait h HeadFlag.binAbandoned).report)) ∧
  ((∀ (tag : Byte) (h : HeadId), WhenTaken (.binStatus tag (byteOf h.val)) fun q p s =>
    let settings := [byteOf (s.bin h).format.val, (s.bin h).timeout]
    ((s.bin h).frame = none → exec (.binStatus tag (byteOf h.val)) s =
      .next (s.answered p q .ok (settings ++ 0#8 :: List.replicate 21 0#8))) ∧
    ∀ frame, (s.bin h).frame = some frame → exec (.binStatus tag (byteOf h.val)) s =
      .next (s.answered p q .ok (settings ++ [1#8, byteOf (s.bin h).position, match (s.bin h).stale with
        | .stopped => 0#8
        | .running => 1#8
        | .expired => 2#8] ++ frame))) ∧
  ∀ (tag head : Byte), WhenTaken (.binStatus tag head) fun q p s => 3 < head.toNat →
    exec (.binStatus tag head) s = .next (s.answered p q .badValue []))

/-- WATCH_SET with every field in range writes the entry, clears its hit flag and is answered OK; with any field out
of range it is refused with BAD_VALUE and leaves the entry (R21; R185 for the on/off bytes). WATCH_READ answers every
field of the entry and its hit flag and leaves the entry as it was; an index above 3 is refused with BAD_VALUE
(R23). -/
def Obligations.WatchRequestsSetAndReadTheEntry : Prop :=
  (∀ (tag : Byte) (b : WatchBody), WhenTaken (.watchSet tag b) fun q p s =>
    (¬ WatchBody.InRange b → exec (.watchSet tag b) s = .next (s.answered p q .badValue [])) ∧
    (WatchBody.InRange b → ∃ (k : Fin 4) (e : Watch),
      b.index.toNat = k.val ∧ e.valid = (b.valid == 1) ∧ e.head.val = b.head.toNat ∧
      (e.site = none ↔ b.site = 0xFF#8) ∧ (∀ i, e.site = some i → i.val = b.site.toNat) ∧ e.bank = b.bank ∧
      e.row = b.row ∧ (e.column = none ↔ b.column = 0xFFFF#16) ∧ (∀ c, e.column = some c → c = b.column) ∧
      e.hold = (b.hold == 1) ∧ e.hit = false ∧
      exec (.watchSet tag b) s = .next { s.answered p q .ok [] with
        capture := { s.capture with watches := upd s.capture.watches k fun _ => e } })) ∧
  ((∀ (tag : Byte) (k : Fin 4), WhenTaken (.watchRead tag (byteOf k.val)) fun q p s =>
    let w := s.capture.watches[k]
    exec (.watchRead tag (byteOf k.val)) s = .next (s.answered p q .ok
      ([boolByte w.valid, byteOf w.head.val, (match w.site with
        | some i => byteOf i.val
        | none => 0xFF#8), w.bank] ++ be16 w.row ++ be16 (match w.column with
        | some c => c
        | none => 0xFFFF#16) ++ [boolByte w.hold, boolByte w.hit]))) ∧
  ∀ (tag index : Byte), WhenTaken (.watchRead tag index) fun q p s => 3 < index.toNat →
    exec (.watchRead tag index) s = .next (s.answered p q .badValue []))

/-- TABLE_READ answers the site's entries-held, the continuation index, the number of entries returned and the entries
of the site at or above the start index, at most `count` of them, 10 bytes each; it is refused with BAD_VALUE outside
the ranges of its fields, and changes nothing (R24). SITE_RESULT answers the site: state, capture flags and cause,
counts, slot, run number, spares, park level, allocator context, outcome and repair list, 26 bytes and 4 for each
repair line; it changes nothing (R60). -/
def Obligations.TableReadAndSiteResultAnswers : Prop :=
  (∀ (tag head site : Byte) (start : Half) (count : Byte),
    WhenTaken (.tableRead tag head site start count) fun q p s =>
    (3 < head.toNat ∨ 31 < site.toNat ∨ 4095 < start.toNat ∨ count.toNat = 0 ∨ 96 < count.toNat →
      exec (.tableRead tag head site start count) s = .next (s.answered p q .badValue [])) ∧
    ∀ (h : HeadId) (i : SiteId), head = byteOf h.val → site = byteOf i.val → start.toNat ≤ 4095 →
      1 ≤ count.toNat → count.toNat ≤ 96 →
      ∃ sent rest : FailTable,
        sent ++ rest = s.capture.table.filter (fun x => decide (start.toNat ≤ x.1) && x.2.head == h && x.2.site == i) ∧
        sent.length ≤ count.toNat ∧ (rest ≠ [] → sent.length = count.toNat) ∧
        exec (.tableRead tag head site start count) s = .next (s.answered p q .ok
          (be16OfNat (s.site h i).entriesHeld ++
            be16OfNat (match rest with
              | [] => 4096
              | x :: _ => x.1) ++ [byteOf sent.length] ++
            sent.flatMap fun x => be16OfNat x.1 ++ (match x.2.key with
              | .cell r c => [1#8, byteOf x.2.region] ++ be16 r ++ be16 c
              | .rowLine r => [2#8, byteOf x.2.region] ++ be16 r ++ [0#8, 0#8]
              | .colLine c => [3#8, byteOf x.2.region] ++ [0#8, 0#8] ++ be16 c) ++ be16OfNat x.2.hits))) ∧
  ((∀ (tag : Byte) (h : HeadId) (i : SiteId),
    WhenTaken (.siteResult tag (byteOf h.val) (byteOf i.val)) fun q p s => ∃ f : List Byte,
      let c := s.site h i
      exec (.siteResult tag (byteOf h.val) (byteOf i.val)) s = .next (s.answered p q .ok f) ∧
      f.length = 26 + 4 * (c.repairList.getD []).length ∧
      f[0]? = some c.state.code ∧
      (∀ b, f[1]? = some b → b.getLsbD 0 = c.aborted.isSome ∧ b.getLsbD 1 = c.captureLost ∧
        b.getLsbD 2 = c.expired ∧ b.getLsbD 3 = c.strictFail ∧ b.getLsbD 4 = c.noRepair) ∧
      f[2]? = some (optCode AbortCause.code c.aborted) ∧
      (f.drop 3).take 5 = be16OfNat c.entriesHeld ++ be16OfNat c.failCount ++ [byteOf c.unmappedCount] ∧
      (∀ e, c.entry = some e → (f.drop 8).take 4 = byteOf e.slot.val :: be16 e.runNumber ++ [byteOf e.spares.length] ∧
        ∀ k sp, e.spares[k]? = some sp → k < 8 → sp.rows ≤ 15 → sp.columns ≤ 15 →
          f[12 + k]? = some (byteOf (16 * sp.rows + sp.columns))) ∧
      (c.entry = none → (f.drop 8).take 12 = List.replicate 12 0#8) ∧
      f[20]? = some (optCode byteOf c.parkLevel) ∧
      (f.drop 21).take 3 = (match c.context with
        | none => [0#8, 0#8, 0#8]
        | some w => [byteOf w.region, w.phase.code, byteOf w.stack.length]) ∧
      (f.drop 24).take 2 = [optCode (fun o => byteOf o.index.val) c.outcome, byteOf (c.repairList.getD []).length] ∧
      f.drop 26 = (c.repairList.getD []).flatMap fun l => byteOf l.region :: match l.line with
        | .row r => 0#8 :: be16 r
        | .col a => 1#8 :: be16 a) ∧
  ∀ (tag head site : Byte), WhenTaken (.siteResult tag head site) fun q p s =>
    3 < head.toNat ∨ 31 < site.toNat → exec (.siteResult tag head site) s = .next (s.answered p q .badValue []))

/-! ## Configuration and events -/

/-- CONFIGURE with every field in range replaces them all in one step; with any field out of range it takes none
(R181; R185 for the on/off bytes). EVENTS_READ answers the part flags and each head's flags as they stand, and clears
the flags its clear sets name; bits that name no flag are passed over (R180, R158, R185). -/
def Obligations.ConfigureAndEventsRead : Prop :=
  (∀ (tag : Byte) (b : ConfigureBody), WhenTaken (.configure tag b) fun q p s =>
    (∀ m : Vector (Fin 4) 8, b.tallyTimeout ≠ 0 → (∀ i : Fin 8, b.classMap[i].toNat = (m[i]).val) →
      b.runNotices.toNat ≤ 1 → b.analysisNotices.toNat ≤ 1 → b.watchNotices.toNat ≤ 1 →
      exec (.configure tag b) s = .next
        ({ s with store := { s.store with classMap := m } }.answered
          { p with config := ⟨b.tallyTimeout, b.runNotices == 1, b.analysisNotices == 1, b.watchNotices == 1⟩ } q .ok [])) ∧
    (b.tallyTimeout = 0 ∨ (∃ i : Fin 8, 3 < b.classMap[i].toNat) ∨ 1 < b.runNotices.toNat ∨
        1 < b.analysisNotices.toNat ∨ 1 < b.watchNotices.toNat →
      exec (.configure tag b) s = .next (s.answered p q .badValue []))) ∧
  (∀ (tag : Byte) (b : EventsBody), WhenTaken (.eventsRead tag b) fun q p s =>
    exec (.eventsRead tag b) s = .next
      ({ s with heads := Vector.ofFn fun h =>
          { s.heads[h] with flags := (s.head h).flags &&& ~~~((b.headClear[h]).setWidth 10) } }.answered
        { p with flags := p.flags &&& ~~~(b.partClear.setWidth 4) } q .ok
        ([p.flags.setWidth 8] ++ be16 ((s.head 0).flags.setWidth 16) ++ be16 ((s.head 1).flags.setWidth 16) ++
          be16 ((s.head 2).flags.setWidth 16) ++ be16 ((s.head 3).flags.setWidth 16))))

/-! ## Plans -/

/-- PLAN_LOAD: a slot above 7, then a use count above 0, then a field out of range is refused and leaves the slot as
it was; otherwise the record is replaced as a whole and the use count stays 0 (R39). PLAN_FREE: a slot above 7 is
refused with BAD_VALUE and a slot in use with IN_USE; otherwise the slot is EMPTY, which an EMPTY slot already was,
and no default plan slot changes (R42). PLAN_READ of an EMPTY slot answers its state and use count alone, and of a
LOADED slot, whatever its use count, every field of the record in the layout of the body; a slot above 7 is refused;
none of them changes anything (R41, R186). -/
def Obligations.PlanRequestsLoadFreeAndRead : Prop :=
  (∀ (tag : Byte) (b : PlanBody), WhenTaken (.planLoad tag b) fun q p s =>
    (7 < b.slot.toNat → exec (.planLoad tag b) s = .next (s.answered p q .badValue [])) ∧
    ∀ i : SlotId, b.slot = byteOf i.val →
      (s.useCount i ≠ 0 → exec (.planLoad tag b) s = .next (s.answered p q .inUse [])) ∧
      (s.useCount i = 0 → ¬ PlanBody.InRange b → exec (.planLoad tag b) s = .next (s.answered p q .badValue [])) ∧
      (s.useCount i = 0 → PlanBody.InRange b → ∃ plan, planOf b = some plan ∧
        exec (.planLoad tag b) s = .next
          ({ s with store := { s.store with slots := upd s.store.slots i fun _ => ⟨some plan, 0⟩ } }.answered p q .ok []))) ∧
  (∀ (tag slot : Byte), WhenTaken (.planFree tag slot) fun q p s =>
    (7 < slot.toNat → exec (.planFree tag slot) s = .next (s.answered p q .badValue [])) ∧
    ∀ i : SlotId, slot = byteOf i.val →
      (0 < s.useCount i → exec (.planFree tag slot) s = .next (s.answered p q .inUse [])) ∧
      (s.useCount i = 0 → exec (.planFree tag slot) s = .next
        ({ s with store := { s.store with slots := upd s.store.slots i fun _ => ⟨none, 0⟩ } }.answered p q .ok [])) ∧
      (s.useCount i = 0 → s.planAt i = none → exec (.planFree tag slot) s = .next (s.answered p q .ok []))) ∧
  (∀ (tag slot : Byte), WhenTaken (.planRead tag slot) fun q p s =>
    (7 < slot.toNat → exec (.planRead tag slot) s = .next (s.answered p q .badValue [])) ∧
    ∀ i : SlotId, slot = byteOf i.val →
      (s.planAt i = none →
        exec (.planRead tag slot) s = .next (s.answered p q .ok [slot, 0#8, byteOf (s.useCount i)])) ∧
      ∀ plan, s.planAt i = some plan → exec (.planRead tag slot) s = .next (s.answered p q .ok
        ([slot, 1#8, byteOf (s.useCount i)] ++ be32 plan.patternId ++
          [byteOf plan.planClass.val, plan.joinSet.setWidth 8] ++ be16OfNat plan.quota ++
          [match plan.expiry with
            | .drop => 0#8
            | .continue => 1#8, plan.masks.setWidth 8, boolByte plan.autoAnalyse] ++ be16 plan.autoBudget ++
          plan.outcomeMap.toList.map (fun c => c.setWidth 8) ++ [plan.absentCode.setWidth 8] ++
          plan.regions.flatMap fun r => [r.bank] ++ be16 r.rowBase ++ be16 r.rowLimit ++ be16 r.columnBase ++
            be16 r.columnLimit ++ [byteOf r.spareRows, byteOf r.spareColumns, match r.policy with
              | .analyse => 0#8
              | .strict => 1#8
              | .ignore => 2#8])))

/-- After a PLAN_LOAD of a body in range, PLAN_READ answers the slot, LOADED, use count 0 and every byte of the body
that was sent, from offset 1 on (R39, R41). -/
def Obligations.PlanReadAnswersTheLoadedBody : Prop :=
  ∀ (tag tag2 : Byte) (b : PlanBody) (i : SlotId) (q : Request) (p : ControlPort)
      (s t : State) (q2 : Request) (p2 : ControlPort), State.AtOwner (.planLoad tag b) q p s →
    b.slot = byteOf i.val → s.useCount i = 0 → PlanBody.InRange b → exec (.planLoad tag b) s = .next t →
    State.AtOwner (.planRead tag2 b.slot) q2 p2 t →
      exec (.planRead tag2 b.slot) t = .next (t.answered p2 q2 .ok ([b.slot, 1#8, 0#8] ++ (planBodyWire b).drop 1))

/-! ## Settings of a head -/

/-- SITE_ENABLE in OFFLINE, STANDBY or IDLE replaces the enable set; an OFF site of the set becomes READY and a READY
site outside it OFF, both with nothing in them; every other site keeps its state and fields. In the other head states
it is refused with WRONG_STATE (R47). START_CONFIG stores its fields and the notice enables of START_SEEN and
START_EARLY; with the head STANDBY, or a HEAD_SLEEP in its slot, W on with a width other than off is refused with
CONFLICT (R157). That in STANDBY a new width other than off ends a running candidate is the model's reading of R155
(log 12). HEAD_EVENTS replaces the notice enables, and refuses bits 10 to 15 (R158, R185). -/
def Obligations.SiteEnableStartConfigAndHeadEvents : Prop :=
  ((∀ (tag head : Byte) (set : SiteSet), WhenTaken (.siteEnable tag head set) fun q p s => 3 < head.toNat →
    exec (.siteEnable tag head set) s = .next (s.answered p q .badValue [])) ∧
  ∀ (tag : Byte) (h : HeadId) (set : SiteSet), WhenTaken (.siteEnable tag (byteOf h.val) set) fun q p s =>
    (((s.head h).state = .offline ∨ (s.head h).state = .standby ∨ (s.head h).state = .idle) →
      ∃ t, exec (.siteEnable tag (byteOf h.val) set) s = .next t ∧
        t.port = (s.answered p q .ok []).port ∧
        t.heads = upd s.heads h (fun c => { c with enableSet := set }) ∧
        (∀ i : SiteId, t.site h i =
          if set.getLsbD i.val = true ∧ (s.site h i).state = .off then .blank .ready
          else if set.getLsbD i.val = false ∧ (s.site h i).state = .ready then .blank .off
          else s.site h i) ∧
        (∀ k, k ≠ h → ∀ i, t.site k i = s.site k i) ∧ State.SameBut [.port, .heads, .sites] s t) ∧
    (((s.head h).state = .waking ∨ (s.head h).state = .queued ∨ (s.head h).state = .inRun ∨
        (s.head h).state = .analysis ∨ (s.head h).state = .binWait) →
      exec (.siteEnable tag (byteOf h.val) set) s = .next (s.answered p q .wrongState []))) ∧
  ((∀ (tag : Byte) (h : HeadId) (b : StartBody) (pol : Polarity) (width : RejectWidth) (w a n : Bool)
      (slot : Option SlotId),
    WhenTaken (.startConfig tag b) fun q p s => b.head = byteOf h.val → b.polarity = pol.code → b.width = width.code →
    b.wake = boolByte w → b.autoQueue = boolByte a → b.notice = boolByte n →
    (b.defaultSlot = match slot with
      | some i => byteOf i.val
      | none => 0xFF#8) →
    let conflict := ((s.head h).state = .standby ∨ ∃ sv, (s.head h).slot = some sv ∧ sv.op = .headSleep) ∧
      w = true ∧ width ≠ .off
    (conflict → exec (.startConfig tag b) s = .next (s.answered p q .conflict [])) ∧
    (¬ conflict → exec (.startConfig tag b) s = .next ((s.answered p q .ok []).onHead h fun c =>
      { c with polarity := pol, width := width, wakeOnStart := w, autoQueue := a, defaultSlot := slot,
               notices := if n then c.notices ||| 3#10 else c.notices &&& ~~~3#10,
               candidate := if c.state = .standby ∧ width ≠ .off then none else c.candidate }))) ∧
  (∀ (tag : Byte) (b : StartBody), WhenTaken (.startConfig tag b) fun q p s =>
    3 < b.head.toNat ∨ 1 < b.polarity.toNat ∨ 3 < b.width.toNat ∨ 1 < b.wake.toNat ∨ 1 < b.autoQueue.toNat ∨
      1 < b.notice.toNat ∨ (7 < b.defaultSlot.toNat ∧ b.defaultSlot ≠ 0xFF#8) →
    exec (.startConfig tag b) s = .next (s.answered p q .badValue [])) ∧
  ∀ (tag : Byte) (h : HeadId) (enables : Half), WhenTaken (.headEvents tag (byteOf h.val) enables) fun q p s =>
    (enables.toNat < 1024 → exec (.headEvents tag (byteOf h.val) enables) s = .next
      ((s.answered p q .ok []).onHead h fun c => { c with notices := enables.setWidth 10 })) ∧
    (1024 ≤ enables.toNat → exec (.headEvents tag (byteOf h.val) enables) s = .next (s.answered p q .badValue [])))

/-! ## The link of a head -/

/-- HEAD_LINK stores enable, LOS detect and align mode in every case. Enabled, an OFF link seeks from position 0, a
change of mode restarts the mark run of a SEEKING link, and other links keep their state; disabled, a link that is not
OFF goes OFF and takes the head with it (R143, R146). The reply carries the link state and aligner position after it;
an enable, a LOS detect or an align mode out of range is refused with BAD_VALUE (R185). What a lost or disabled link
does to its head: the supply is OFF, the slot free, no wake pending, and a service of host origin is answered
NO_ANSWER; IDLE, STANDBY and WAKING heads become OFFLINE, a QUEUED head leaves the queue to OFFLINE with its plan use,
an IN_RUN head is dropped with cause LINK, and the other heads keep their state (R146). The model's own are the supply
byte of a NO_ANSWER (log 14), the service's reply before that of HEAD_LINK (log 23), and the comparison of the START
line when a head leaves STANDBY (log 12). -/
def Obligations.HeadLinkAndTheLossOfALink : Prop :=
  ((∀ tag head on los mode : Byte, WhenTaken (.headLink tag head on los mode) fun q p s =>
    3 < head.toNat ∨ 1 < on.toNat ∨ 1 < los.toNat ∨ 1 < mode.toNat →
      exec (.headLink tag head on los mode) s = .next (s.answered p q .badValue [])) ∧
  ∀ (tag : Byte) (h : HeadId) (on los : Bool) (mode : AlignMode),
    WhenTaken (.headLink tag (byteOf h.val) (boolByte on) (boolByte los) mode.code) fun q p s =>
    let c := s.head h
    let kept := s.onHead h fun c => { c with linkEnable := on, losDetect := los, alignMode := mode }
    ∃ u : State, exec (.headLink tag (byteOf h.val) (boolByte on) (boolByte los) mode.code) s =
        .next (({ u with port := { u.port with replies := u.port.replies ++
          [(⟨q.kind, q.tag, .ok, [(u.head h).link.code, byteOf (u.head h).aligner.val], true⟩ : Reply)] } }).settle) ∧
      (on = true → c.link = .off → u = { kept with port := p }.onHead h fun c =>
        { c with link := .seeking, aligner := 0, markRun := 0, flags := c.flags ||| HeadFlag.linkChange,
                 raised := c.raised ||| HeadFlag.linkChange }) ∧
      (on = true → c.link = .seeking → u = { kept with port := p }.onHead h fun d =>
        { d with markRun := if c.alignMode = mode then d.markRun else 0 }) ∧
      (on = true → c.link = .locked ∨ c.link = .lost → u = { kept with port := p }) ∧
      (on = false → c.link = .off → u = { kept with port := p }) ∧
      (on = false → c.link ≠ .off → u = (({ kept with port := p }.onHead h fun c =>
        { c with link := .off, reseek := false, flags := c.flags ||| HeadFlag.linkChange,
                 raised := c.raised ||| HeadFlag.linkChange }).linkDown h))) ∧
  (∀ (h : HeadId) (s : State),
    let bare := s.onHead h fun c => { c with supply := .off, slot := none, pendingWake := none }
    ∃ replies : List Reply,
      (replies = match (s.head h).slot with
        | some ⟨op, .host tag, _, _⟩ => [⟨op.kind, tag, .noAnswer, (match op with
            | .supplyOn => [SupplyState.off.code]
            | .supplyOff => [SupplyState.off.code]
            | _ => []), true⟩]
        | _ => []) ∧
      let t := { bare with port := { bare.port with replies := bare.port.replies ++ replies } }
      ((s.head h).state = .offline ∨ (s.head h).state = .analysis ∨ (s.head h).state = .binWait → s.linkDown h = t) ∧
      ((s.head h).state = .idle ∨ (s.head h).state = .waking → s.linkDown h = t.setHeadState h .offline) ∧
      ((s.head h).state = .standby → s.linkDown h = (t.setHeadState h .offline).resumeFilter h) ∧
      ((s.head h).state = .queued → ∀ e, s.arbiter.queue.find? (fun e => e.head == h) = some e →
        s.linkDown h = { (t.setHeadState h .offline) with
          arbiter := { s.arbiter with queue := s.arbiter.queue.filter fun e => e.head != h }
          store := { s.store with slots := upd s.store.slots e.slot fun x =>
            { x with useCount := x.useCount - 1 } } }) ∧
      ((s.head h).state = .inRun → s.linkDown h = t.dropHead h .link))

/-- Alignment marks: SEEKING counts placed marks and locks at 4, an OFFLINE head then becoming IDLE; a misplaced mark
moves the aligner in MARK mode and clears the mark run in MANUAL mode. LOCKED counts misplaced marks and is LOST at 4,
a placed mark clearing the count; after any mark that the link takes a frame may begin (log 25); OFF and LOST take no
mark (R144, R145, R147, R187). Loss of signal clears the mark run in SEEKING and, with LOS detect on, loses a LOCKED
link at once; the re-seek timer makes a LOST link SEEKING with its aligner position kept; LINK_SHIFT advances the
aligner, from 15 to 0, in SEEKING and MANUAL mode and is refused otherwise (R144, R145). -/
def Obligations.MarksSignalLossReseekAndLinkShift : Prop :=
  (∀ (h : HeadId) (s : State),
    let c := s.head h
    let locked := (s.onHead h fun c =>
      { c with link := .locked, markRun := c.markRun + 1, missRun := 0, awaitMark := false,
               flags := c.flags ||| HeadFlag.linkChange, raised := c.raised ||| HeadFlag.linkChange,
               state := if c.state = .offline then .idle else c.state })
    (c.link = .seeking → c.markRun < 3 → exec (.alignMarkPlaced h) s =
      .next (s.onHead h fun c => { c with markRun := c.markRun + 1, awaitMark := false }).settle) ∧
    (c.link = .seeking → 3 ≤ c.markRun → exec (.alignMarkPlaced h) s = .next locked.settle) ∧
    (c.link = .locked → exec (.alignMarkPlaced h) s =
      .next (s.onHead h fun c => { c with missRun := 0, awaitMark := false }).settle) ∧
    (c.link = .off ∨ c.link = .lost → exec (.alignMarkPlaced h) s = .next s.settle) ∧
    ∀ x : Fin 16, x ≠ c.aligner →
      (c.link = .seeking → c.alignMode = .mark → exec (.alignMarkMisplaced h x) s =
        .next (s.onHead h fun c => { c with aligner := x, markRun := 1, awaitMark := false }).settle) ∧
      (c.link = .seeking → c.alignMode = .manual → exec (.alignMarkMisplaced h x) s =
        .next (s.onHead h fun c => { c with markRun := 0, awaitMark := false }).settle) ∧
      (c.link = .locked → c.missRun < 3 → exec (.alignMarkMisplaced h x) s =
        .next (s.onHead h fun c => { c with missRun := c.missRun + 1, awaitMark := false }).settle) ∧
      (c.link = .locked → 3 ≤ c.missRun → exec (.alignMarkMisplaced h x) s =
        .next ((s.onHead h fun c =>
          { c with link := .lost, missRun := c.missRun + 1, awaitMark := false, reseek := true,
                   flags := c.flags ||| HeadFlag.linkChange,
                   raised := c.raised ||| HeadFlag.linkChange }).linkDown h).settle) ∧
      (c.link = .off ∨ c.link = .lost → exec (.alignMarkMisplaced h x) s = .next s.settle)) ∧
  ((∀ (h : HeadId) (s : State),
    let c := s.head h
    (c.link = .seeking → exec (.signalLoss h) s = .next (s.onHead h fun c => { c with markRun := 0 }).settle) ∧
    (c.link = .locked → c.losDetect = true → exec (.signalLoss h) s =
      .next ((s.onHead h fun c => { c with link := .lost, reseek := true, flags := c.flags ||| HeadFlag.linkChange,
                                           raised := c.raised ||| HeadFlag.linkChange }).linkDown h).settle) ∧
    (c.link = .off ∨ c.link = .lost ∨ (c.link = .locked ∧ c.losDetect = false) →
      exec (.signalLoss h) s = .next s.settle) ∧
    (c.link = .lost → c.reseek = true → exec (.reseekTimerExpiry h) s =
      .next (s.onHead h fun c =>
        { c with link := .seeking, reseek := false, markRun := 0, flags := c.flags ||| HeadFlag.linkChange,
                 raised := c.raised ||| HeadFlag.linkChange }).report) ∧
    (c.link ≠ .lost ∨ c.reseek = false → exec (.reseekTimerExpiry h) s = .next s)) ∧
  ∀ (tag : Byte) (h : HeadId), WhenTaken (.linkShift tag (byteOf h.val)) fun q p s =>
    let c := s.head h
    (c.link = .seeking → c.alignMode = .manual → exec (.linkShift tag (byteOf h.val)) s =
      .next ((s.answered p q .ok [byteOf ((c.aligner.val + 1) % 16)]).onHead h fun c =>
        { c with aligner := c.aligner + 1, markRun := 0 })) ∧
    (c.link ≠ .seeking ∨ c.alignMode ≠ .manual →
      exec (.linkShift tag (byteOf h.val)) s = .next (s.answered p q .wrongState [])))

/-! ## Services -/

/-- SUPPLY_SET is checked in the order of R151: a setting above 1 is refused with BAD_VALUE (R185); then wrong state,
FAULT for on, slot busy, already there; otherwise the service is issued with the next number and the supply is RAMPING
or FALLING, and the reply waits (R149, R151). -/
def Obligations.SupplySetIsCheckedInOrder : Prop :=
  (∀ tag head setting : Byte, WhenTaken (.supplySet tag head setting) fun q p s => 3 < head.toNat ∨ 1 < setting.toNat →
    exec (.supplySet tag head setting) s = .next (s.answered p q .badValue [])) ∧
  ∀ (tag : Byte) (h : HeadId) (on : Bool), WhenTaken (.supplySet tag (byteOf h.val) (boolByte on)) fun q p s =>
    let c := s.head h
    let run := exec (.supplySet tag (byteOf h.val) (boolByte on)) s
    let barred := c.link ≠ .locked ∨ c.state = .offline ∨ c.state = .standby ∨ c.state = .waking ∨
      (on = false ∧ c.state = .inRun)
    let op : ServiceOp := if on then .supplyOn else .supplyOff
    (barred → run = .next (s.answered p q .wrongState [])) ∧
    (¬ barred → on = true → c.supply = .fault → run = .next (s.answered p q .wrongState [])) ∧
    (¬ barred → ¬ (on = true ∧ c.supply = .fault) → c.slot.isSome → run = .next (s.answered p q .slotBusy [])) ∧
    (¬ barred → ¬ (on = true ∧ c.supply = .fault) → c.slot = none → c.supply = (if on then .on else .off) →
      run = .next (s.answered p q .ok [c.supply.code])) ∧
    (¬ barred → ¬ (on = true ∧ c.supply = .fault) → c.slot = none → c.supply ≠ (if on then .on else .off) →
      run = .next ({ s.takenBy p with
        heads := upd s.heads h fun c =>
          { c with supply := if on then .ramping else .falling, serviceNumber := c.serviceNumber + 1,
                   slot := some ⟨op, .host tag, c.serviceNumber + 1, 20000⟩ }
        wire := s.sending [] fun k => onlyIf (k == h) (.service (c.serviceNumber + 1) op) }))

/-- HEAD_ACCESS with a direction above 1 is refused with BAD_VALUE (R185); it needs a LOCKED link and a free slot, and
issues HEAD_READ or HEAD_WRITE with a timer of 2 ms (R150). HEAD_STANDBY needs an IDLE head with its supply OFF, then
no filtered wake, then a free slot, and issues HEAD_SLEEP; HEAD_WAKE needs STANDBY and a free slot, makes the head
WAKING and issues HEAD_WAKE with the queue mark off, and the start filter begins a candidate if the line differs from
its recognised level (R153, R154, R155); that it does so with the width off too is the model's reading (log 12). -/
def Obligations.HeadAccessStandbyAndWakeIssueServices : Prop :=
  ((∀ (tag head direction register : Byte) (value : Half),
    WhenTaken (.headAccess tag head direction register value) fun q p s => 3 < head.toNat ∨ 1 < direction.toNat →
      exec (.headAccess tag head direction register value) s = .next (s.answered p q .badValue [])) ∧
  ∀ (tag : Byte) (h : HeadId) (write : Bool) (register : Byte) (value : Half),
    WhenTaken (.headAccess tag (byteOf h.val) (boolByte write) register value) fun q p s =>
    let c := s.head h
    let run := exec (.headAccess tag (byteOf h.val) (boolByte write) register value) s
    let op : ServiceOp := if write then .headWrite register value else .headRead register
    (c.link ≠ .locked → run = .next (s.answered p q .wrongState [])) ∧
    (c.link = .locked → c.slot.isSome → run = .next (s.answered p q .slotBusy [])) ∧
    (c.link = .locked → c.slot = none → run = .next ({ s.takenBy p with
      heads := upd s.heads h fun c =>
        { c with serviceNumber := c.serviceNumber + 1, slot := some ⟨op, .host tag, c.serviceNumber + 1, 200⟩ }
      wire := s.sending [] fun k => onlyIf (k == h) (.service (c.serviceNumber + 1) op) }))) ∧
  ((∀ (tag : Byte) (h : HeadId), WhenTaken (.headStandby tag (byteOf h.val)) fun q p s =>
    let c := s.head h
    let run := exec (.headStandby tag (byteOf h.val)) s
    (c.state ≠ .idle ∨ c.supply ≠ .off → run = .next (s.answered p q .wrongState [])) ∧
    (c.state = .idle → c.supply = .off → c.wakeOnStart = true → c.width ≠ .off →
      run = .next (s.answered p q .conflict [])) ∧
    (c.state = .idle → c.supply = .off → (c.wakeOnStart = false ∨ c.width = .off) → c.slot.isSome →
      run = .next (s.answered p q .slotBusy [])) ∧
    (c.state = .idle → c.supply = .off → (c.wakeOnStart = false ∨ c.width = .off) → c.slot = none →
      run = .next ({ s.takenBy p with
        heads := upd s.heads h fun c =>
          { c with serviceNumber := c.serviceNumber + 1,
                   slot := some ⟨.headSleep, .host tag, c.serviceNumber + 1, 500⟩ }
        wire := s.sending [] fun k => onlyIf (k == h) (.service (c.serviceNumber + 1) .headSleep) }))) ∧
  ∀ (tag : Byte) (h : HeadId), WhenTaken (.headWake tag (byteOf h.val)) fun q p s =>
    let c := s.head h
    let run := exec (.headWake tag (byteOf h.val)) s
    (c.state ≠ .standby → run = .next (s.answered p q .wrongState [])) ∧
    (c.state = .standby → c.slot.isSome → run = .next (s.answered p q .slotBusy [])) ∧
    (c.state = .standby → c.slot = none → run = .next ({ s.takenBy p with
      heads := upd s.heads h fun c =>
        { c with state := .waking, serviceNumber := c.serviceNumber + 1,
                 slot := some ⟨.headWake false, .host tag, c.serviceNumber + 1, 500⟩,
                 candidate := if c.recognised ≠ s.lines[h].start ∧ c.candidate = none
                   then some ⟨s.lines[h].start, c.width⟩ else c.candidate }
      wire := s.sending [] fun k => onlyIf (k == h) (.service (c.serviceNumber + 1) (.headWake false)) })))

/-- The ends of supply and register services, of host and of INTERNAL origin: what the supply becomes, the reply,
which an INTERNAL one does not have, and the issue of a pending wake in the same step (R149, R150, R151, R154, R160);
that the start filter then begins a candidate on a differing line (R155) with the width off too is the model's reading
(log 12). A reply of another number, or with the slot free, changes nothing, and an expiry with the slot free does not
either (R149). The ends of HEAD_SLEEP and HEAD_WAKE, where no wake is pending: a good sleep makes an IDLE head
STANDBY, ending a candidate of a filter whose clock stops, and wakes a head that queued meanwhile; a good wake makes a
WAKING head IDLE, and queues it when its mark is on and its default slot LOADED; a failed wake makes it STANDBY with
WAKE_FAIL (R153, R154, R155). A wake that ends with its head QUEUED leaves it so, a failed one with WAKE_FAIL (R153);
in the head states that R153 and R154 do not name, the head state kept is the model's reading (log 20). -/
def Obligations.ServicesEndAsTheirOperationGives : Prop :=
  (∀ (h : HeadId) (s : State) (op : ServiceOp) (origin : ServiceOrigin) (n : Byte) (timer : Nat) (value : Half),
    (s.head h).link = .locked → (s.head h).awaitMark = false → (s.head h).slot = some ⟨op, origin, n, timer⟩ →
    let wakes := fun u : State => match (s.head h).pendingWake with
      | none => u
      | some mark => { u with
          heads := upd u.heads h fun c =>
            { c with state := .waking, pendingWake := none, serviceNumber := c.serviceNumber + 1,
                     slot := some ⟨.headWake mark, .internal, c.serviceNumber + 1, 500⟩,
                     candidate := if c.recognised ≠ s.lines[h].start ∧ c.candidate = none
                       then some ⟨s.lines[h].start, c.width⟩ else c.candidate }
          wire := s.sending [] fun k => onlyIf (k == h) (.service ((s.head h).serviceNumber + 1) (.headWake mark)) }
    let ends := fun (c : Instr) (supply : SupplyState) (flag : BitVec 10) (st : Status) (fields : List Byte) =>
      exec c s = .next (wakes { s with
        heads := upd s.heads h fun c =>
          { c with slot := none, supply := supply, flags := c.flags ||| flag, raised := c.raised ||| flag }
        port := match origin with
          | .host tag => { s.port with replies := s.port.replies ++ [(⟨op.kind, tag, st, fields, true⟩ : Reply)] }
          | .internal => s.port }).settle
    let now := (s.head h).supply
    (op = .supplyOn →
      ends (.serviceReply h n .good value) .on 0 .ok [2#8] ∧
      ends (.serviceReply h n .trip value) .fault HeadFlag.supplyTrip .ok [4#8] ∧
      ends (.serviceReply h n .refused value) .fault 0 .noAnswer [4#8] ∧
      ends (.serviceTimeout h) .fault 0 .noAnswer [4#8]) ∧
    (op = .supplyOff →
      (∀ r, ends (.serviceReply h n r value) .off 0 .ok [0#8]) ∧ ends (.serviceTimeout h) .fault 0 .noAnswer [4#8]) ∧
    (∀ x, op = .headRead x →
      ends (.serviceReply h n .good value) now 0 .ok (be16 value) ∧
      ends (.serviceReply h n .trip value) now 0 .ok (be16 value) ∧
      ends (.serviceReply h n .refused value) now 0 .badValue [] ∧ ends (.serviceTimeout h) now 0 .noAnswer []) ∧
    (∀ x v, op = .headWrite x v →
      ends (.serviceReply h n .good value) now 0 .ok [] ∧ ends (.serviceReply h n .trip value) now 0 .ok [] ∧
      ends (.serviceReply h n .refused value) now 0 .badValue [] ∧ ends (.serviceTimeout h) now 0 .noAnswer []) ∧
    (∀ m r, m ≠ n → exec (.serviceReply h m r value) s = .next s) ∧
    (let free := s.onHead h fun c => { c with slot := none }
     (∀ m r, exec (.serviceReply h m r value) free = .next free) ∧ exec (.serviceTimeout h) free = .next free)) ∧
  (∀ (h : HeadId) (s : State) (origin : ServiceOrigin) (n : Byte) (timer : Nat) (value : Half) (r : ServiceResult)
      (mark : Bool),
    (s.head h).link = .locked → (s.head h).awaitMark = false → (s.head h).pendingWake = none →
    let paid := fun (k : Byte) (st : Status) (u : State) =>
      (match origin with
        | .host tag => { u with port := { u.port with replies := u.port.replies ++ [(⟨k, tag, st, [], true⟩ : Reply)] } }
        | .internal => u).settle
    let free := s.onHead h fun c => { c with slot := none }
    ((s.head h).slot = some ⟨.headSleep, origin, n, timer⟩ →
      ((s.head h).state = .idle → r ≠ .refused → exec (.serviceReply h n r value) s =
        .next (paid 0x25#8 .ok (free.onHead h fun c =>
          { c with state := .standby, candidate := if c.width ≠ .off then none else c.candidate }))) ∧
      ((s.head h).state = .queued → r ≠ .refused → exec (.serviceReply h n r value) s =
        .next (paid 0x25#8 .conflict (free.issueService h (.headWake false) .internal))) ∧
      ((s.head h).state ≠ .idle → (s.head h).state ≠ .queued → r ≠ .refused →
        exec (.serviceReply h n r value) s = .next (paid 0x25#8 .ok free)) ∧
      exec (.serviceReply h n .refused value) s = .next (paid 0x25#8 .noAnswer free) ∧
      exec (.serviceTimeout h) s = .next (paid 0x25#8 .noAnswer free)) ∧
    ((s.head h).slot = some ⟨.headWake mark, origin, n, timer⟩ → (s.head h).state = .waking →
      (mark = false ∨ (s.head h).defaultSlot = none ∨
          (∃ i, (s.head h).defaultSlot = some i ∧ s.planAt i = none) → r ≠ .refused →
        exec (.serviceReply h n r value) s = .next (paid 0x26#8 .ok (free.setHeadState h .idle))) ∧
      (∀ i plan, mark = true → (s.head h).defaultSlot = some i → s.planAt i = some plan → r ≠ .refused →
        exec (.serviceReply h n r value) s = .next (paid 0x26#8 .ok { (free.setHeadState h .queued) with
          arbiter := { s.arbiter with queue := s.arbiter.queue ++
            [⟨h, i, plan.planClass, s.store.classMap[plan.planClass]⟩] }
          store := { s.store with slots := upd s.store.slots i fun x => { x with useCount := x.useCount + 1 } } })) ∧
      let failed := paid 0x26#8 .noAnswer (free.onHead h fun c =>
        { c with state := .standby, candidate := if c.width ≠ .off then none else c.candidate,
                 flags := c.flags ||| HeadFlag.wakeFail, raised := c.raised ||| HeadFlag.wakeFail })
      exec (.serviceReply h n .refused value) s = .next failed ∧ exec (.serviceTimeout h) s = .next failed) ∧
    ((s.head h).slot = some ⟨.headWake mark, origin, n, timer⟩ → (s.head h).state ≠ .waking →
      (r ≠ .refused → exec (.serviceReply h n r value) s = .next (paid 0x26#8 .ok free)) ∧
      let failed := paid 0x26#8 .noAnswer (free.onHead h fun c =>
        { c with flags := c.flags ||| HeadFlag.wakeFail, raised := c.raised ||| HeadFlag.wakeFail })
      exec (.serviceReply h n .refused value) s = .next failed ∧ exec (.serviceTimeout h) s = .next failed))

/-- A SUPPLY_TRIP with the supply ON sets FAULT and the SUPPLY_TRIP flag and drops an IN_RUN head with cause SUPPLY;
with the supply in any other state it changes nothing (R152). An ill-formed frame of a head, with an unknown kind, a
length that is not that of its kind, a wrong check byte or a result that is no code, reaches no block; after a length
above 1027 no frame begins before the next alignment mark; with the link not LOCKED, or such a mark awaited, no frame
of the head does anything (R187, R148). -/
def Obligations.SupplyTripAndIllFormedHeadFrames : Prop :=
  (∀ (h : HeadId) (s : State), (s.head h).link = .locked → (s.head h).awaitMark = false →
    let tripped := s.onHead h fun c =>
      { c with supply := .fault, flags := c.flags ||| HeadFlag.supplyTrip, raised := c.raised ||| HeadFlag.supplyTrip }
    ((s.head h).supply = .on → (s.head h).state = .inRun →
      exec (.supplyTrip h) s = .next (tripped.dropHead h .supply).settle) ∧
    ((s.head h).supply = .on → (s.head h).state ≠ .inRun → exec (.supplyTrip h) s = .next tripped.settle) ∧
    ((s.head h).supply ≠ .on → exec (.supplyTrip h) s = .next s)) ∧
  (∀ (h : HeadId) (s : State),
    (∀ (kind hi lo check : Byte) (body : List Byte), (half hi lo).toNat ≤ 1027 →
      ((kind ≠ 0x11#8 ∧ kind ≠ 0x12#8 ∧ kind ≠ 0x13#8 ∧ kind ≠ 0x14#8 ∧ kind ≠ 0x15#8) ∨
        (half hi lo).toNat ≠ body.length ∨ check ≠ xorBytes (kind :: hi :: lo :: body) ∨
        (kind = 0x11#8 ∧ body.length ≠ 6) ∨ (kind = 0x12#8 ∧ body.length ≠ 8) ∨ (kind = 0x13#8 ∧ body ≠ []) ∨
        (kind = 0x14#8 ∧ body.length ≠ 4) ∨ (kind = 0x15#8 ∧ body ≠ []) ∨
        (kind = 0x14#8 ∧ ∃ r, body[1]? = some r ∧ 2 < r.toNat)) →
      exec (.headFrameDiscard h (kind :: hi :: lo :: (body ++ [check]))) s = .next s) ∧
    (∀ bytes : List Byte, bytes.length < 3 → exec (.headFrameDiscard h bytes) s = .next s) ∧
    (∀ kind hi lo : Byte, 1027 < (half hi lo).toNat → (s.head h).link = .locked → (s.head h).awaitMark = false →
      exec (.headFrameDiscard h [kind, hi, lo]) s = .next (s.onHead h fun c => { c with awaitMark := true })) ∧
    ((s.head h).link ≠ .locked ∨ (s.head h).awaitMark = true →
      (∀ bytes, exec (.headFrameDiscard h bytes) s = .next s) ∧ exec (.supplyTrip h) s = .next s ∧
      (∀ n r v, exec (.serviceReply h n r v) s = .next s) ∧ (∀ d k m, exec (.passTally h d k m) s = .next s) ∧
      exec (.endTally h) s = .next s ∧ ∀ i b r c w, exec (.fail ⟨h, w⟩ i b r c) s = .next s))

/-! ## The START line -/

/-- The start filter: with width off a change is recognised at once; otherwise it begins a candidate with the width,
which the return to the recognised level abandons and its expiry recognises; in STANDBY with a width other than off no
candidate begins (R155). Here for the edge that is not of the configured polarity, which changes the recognised level
alone. A START edge, recognised at once or by the expiry of its candidate, sets START_SEEN, and by head state, W and
Q: OFFLINE nothing more; STANDBY with W on a wake with the queue mark Q, pending while the slot is busy; IDLE with Q
on and the default slot LOADED joins the queue; every other state START_EARLY (R155, R156, R154, R85). That the wake,
which leaves STANDBY, begins a candidate on a differing line with the width off too is the model's reading (log
12). -/
def Obligations.TheStartLineIsFilteredAndTaken : Prop :=
  (∀ (h : HeadId) (level : LineLevel) (s : State),
    let c := s.head h
    let moved := s.onLines h fun l => { l with start := level }
    (s.lines[h].start = level → exec (.startLineChange h level) s = .next s) ∧
    (s.lines[h].start ≠ level →
      (c.recognised = level → exec (.startLineChange h level) s =
        .next (moved.onHead h fun c => { c with candidate := none }).settle) ∧
      (c.recognised ≠ level → c.width = .off → State.edgeTo level ≠ c.polarity → exec (.startLineChange h level) s =
        .next (moved.onHead h fun c => { c with recognised := level, candidate := none }).settle) ∧
      (c.recognised ≠ level → c.width ≠ .off → c.state ≠ .standby → exec (.startLineChange h level) s =
        .next (moved.onHead h fun c => { c with candidate := some ⟨level, c.width⟩ }).settle) ∧
      (c.recognised ≠ level → c.width ≠ .off → c.state = .standby →
        exec (.startLineChange h level) s = .next moved.settle)) ∧
    (∀ w, c.candidate = some ⟨level, w⟩ → State.edgeTo level ≠ c.polarity → exec (.startCandidateExpiry h) s =
      .next (s.onHead h fun c => { c with recognised := level, candidate := none }).settle) ∧
    (c.candidate = none → exec (.startCandidateExpiry h) s = .next s)) ∧
  (∀ (h : HeadId) (level : LineLevel) (s : State),
    let c := s.head h
    let seen := fun (flag : BitVec 10) (u : State) => u.onHead h fun c =>
      { c with recognised := level, candidate := none, flags := c.flags ||| flag, raised := c.raised ||| flag }
    let outcome := fun (u : State) (t : State) =>
      let one := seen HeadFlag.startSeen u
      (c.state = .offline → t = one) ∧
      (c.state = .standby → c.wakeOnStart = false → t = one) ∧
      (c.state = .standby → c.wakeOnStart = true → c.slot = none →
        t = (one.issueService h (.headWake c.autoQueue) .internal).onHead h fun c =>
          { c with state := .waking,
                   candidate := if u.lines[h].start = level then none else some ⟨u.lines[h].start, c.width⟩ }) ∧
      (c.state = .standby → c.wakeOnStart = true → c.slot.isSome →
        t = one.onHead h fun d => { d with pendingWake := some (c.pendingWake == some true || c.autoQueue) }) ∧
      (c.state = .idle → c.autoQueue = false ∨ c.defaultSlot = none ∨
        (∃ i, c.defaultSlot = some i ∧ s.planAt i = none) → t = one) ∧
      (∀ i plan, c.state = .idle → c.autoQueue = true → c.defaultSlot = some i → s.planAt i = some plan →
        t = { (one.setHeadState h .queued) with
          arbiter := { s.arbiter with queue := s.arbiter.queue ++
            [⟨h, i, plan.planClass, s.store.classMap[plan.planClass]⟩] }
          store := { s.store with slots := upd s.store.slots i fun x => { x with useCount := x.useCount + 1 } } }) ∧
      (c.state = .waking ∨ c.state = .queued ∨ c.state = .inRun ∨ c.state = .analysis ∨ c.state = .binWait →
        t = seen (HeadFlag.startSeen ||| HeadFlag.startEarly) u)
    c.recognised ≠ level → State.edgeTo level = c.polarity →
    (s.lines[h].start ≠ level → c.width = .off → ∃ t, exec (.startLineChange h level) s = .next t.settle ∧
      outcome (s.onLines h fun l => { l with start := level }) t) ∧
    (∀ w, c.candidate = some ⟨level, w⟩ →
      ∃ t, exec (.startCandidateExpiry h) s = .next t.settle ∧ outcome s t))

/-! ## HEAD_RESET -/

/-- HEAD_RESET of a head: an IN_RUN head is first dropped with cause RESET; then its queue entry and job are gone, its
frame withdrawn, its entries freed and its watch entries cleared, its sites READY or OFF by the enable set with
nothing in them, its plan use given up, its slot free but for an INTERNAL SUPPLY_OFF when the supply was not OFF, its
link re-seeking when it was SEEKING or LOST; STANDBY is kept, WAKING becomes STANDBY, and any other state IDLE or
OFFLINE by the link; the link settings, the aligner position, the start configuration, the default plan slot, the
recognised level, the enable set, the notice enables and, with the supply OFF, the service number are kept, and a
candidate is kept where R155 lets the filter run (R160, R142). The order of the replies is the model's choice (log
23), and so is the supply byte of an ABANDONED (log 14). -/
def Obligations.HeadResetBringsTheHeadToRest : Prop :=
  ∀ (tag : Byte) (h : HeadId), WhenTaken (.headReset tag (byteOf h.val)) fun q p s =>
    let s0 : State := { s with port := p }
    let d := if (s.head h).state = .inRun then s0.dropHead h .reset else s0
    let c := d.head h
    ∃ u : State, exec (.headReset tag (byteOf h.val)) s = .next u.settle ∧
      u.arbiter = { d.arbiter with queue := d.arbiter.queue.filter fun e => e.head != h } ∧
      u.alloc = ⟨d.alloc.jobs.filter fun j => j.head != h,
        if d.alloc.jobs.head?.map Job.head = some h then none else d.alloc.engine⟩ ∧
      u.bins = upd d.bins h (fun b =>
        { b with frame := none, position := 0, stale := .stopped, bdata := bdataIdle b.format, leadTaken := false }) ∧
      u.capture.table = d.capture.table.filter (fun x => x.2.head != h) ∧
      (∀ k : Fin 4, u.capture.watches[k] =
        if d.capture.watches[k].head = h then .reset else d.capture.watches[k]) ∧
      u.capture.raises = d.capture.raises ∧ u.store.classMap = d.store.classMap ∧
      (∀ i, u.site h i = .blank (if c.enableSet.getLsbD i.val then .ready else .off)) ∧
      (∀ k, k ≠ h → u.head k = d.head k ∧ ∀ i, u.site k i = d.site k i) ∧
      (∀ i : SlotId, u.store.slots[i].record = d.store.slots[i].record ∧ u.useCount i =
        if d.headSlot h = some i then d.useCount i - 1 else d.useCount i) ∧
      u.head h = { c with
        state := match c.state with
          | .standby => .standby
          | .waking => .standby
          | _ => if c.link = .locked then .idle else .offline
        link := if c.link = .lost then .seeking else c.link
        markRun := if c.link = .lost ∨ c.link = .seeking then 0 else c.markRun
        missRun := if c.link = .locked then 0 else c.missRun
        reseek := if c.link = .lost ∨ c.link = .seeking then false else c.reseek
        supply := if c.supply = .off then .off else .falling
        serviceNumber := if c.supply = .off then c.serviceNumber else c.serviceNumber + 1
        slot := if c.supply = .off then none else some ⟨.supplyOff, .internal, c.serviceNumber + 1, 20000⟩
        pendingWake := none
        candidate := if c.state = .waking ∧ c.width ≠ .off then none else c.candidate
        flags := if c.link = .lost then c.flags ||| HeadFlag.linkChange else c.flags
        raised := if c.link = .lost then c.raised ||| HeadFlag.linkChange else c.raised } ∧
      u.port = { d.port with replies := d.port.replies ++
        ((d.jobOf h).map fun j => j.owes.map fun t => (⟨0x44#8, t, .abandoned, [], true⟩ : Reply)).getD [] ++
        (c.slot.map fun v => v.owes.map fun t => (⟨v.op.kind, t, .abandoned, (match v.op with
          | .supplyOn => [(u.head h).supply.code]
          | .supplyOff => [(u.head h).supply.code]
          | _ => []), true⟩ : Reply)).getD [] ++ [(⟨q.kind, q.tag, .ok, [], true⟩ : Reply)] } ∧
      u.run = d.run ∧ u.gates = d.gates ∧ u.lines = d.lines ∧
      u.wire = d.sending [] fun k => onlyIf (k == h && c.supply != .off) (.service (c.serviceNumber + 1) .supplyOff)

/-! ## The Run Arbiter -/

/-- RUN_REQUEST needs an IDLE head and a LOADED slot; the entry joins at the back with the plan's class and the level
of the Class Map, the head is QUEUED and the slot's use count rises. RUN_CANCEL takes a QUEUED head's entry out, the
head is IDLE and the use count falls. ARBITER_SET sets the enable (R84, R86, R88). A grant may follow (R88). -/
def Obligations.HeadsJoinAndLeaveTheQueue : Prop :=
  (∀ (tag slot : Byte) (h : HeadId), WhenTaken (.runRequest tag (byteOf h.val) slot) fun q p s =>
    let run := exec (.runRequest tag (byteOf h.val) slot) s
    (7 < slot.toNat → run = .next (s.answered p q .badValue [])) ∧
    ∀ i : SlotId, slot = byteOf i.val →
      ((s.head h).state ≠ .idle ∨ s.planAt i = none → run = .next (s.answered p q .wrongState [])) ∧
      ∀ plan, (s.head h).state = .idle → s.planAt i = some plan →
        run = .next ({ (s.replied p q .ok []).setHeadState h .queued with
          arbiter := { s.arbiter with queue := s.arbiter.queue ++
            [(⟨h, i, plan.planClass, s.store.classMap[plan.planClass]⟩ : QueueEntry)] }
          store := { s.store with slots := upd s.store.slots i fun x =>
            { x with useCount := x.useCount + 1 } } }).settle) ∧
  (∀ (tag : Byte) (h : HeadId), WhenTaken (.runCancel tag (byteOf h.val)) fun q p s =>
    let run := exec (.runCancel tag (byteOf h.val)) s
    ((s.head h).state ≠ .queued → run = .next (s.answered p q .wrongState [])) ∧
    ∀ e, (s.head h).state = .queued → s.arbiter.queue.find? (fun e => e.head == h) = some e →
      run = .next { (s.answered p q .ok []).setHeadState h .idle with
        arbiter := { s.arbiter with queue := s.arbiter.queue.filter fun e => e.head != h }
        store := { s.store with slots := upd s.store.slots e.slot fun x =>
          { x with useCount := x.useCount - 1 } } }) ∧
  ∀ (tag enable : Byte), WhenTaken (.arbiterSet tag enable) fun q p s =>
    (∀ b : Bool, enable = boolByte b → exec (.arbiterSet tag enable) s =
      .next ({ s.replied p q .ok [] with arbiter := { s.arbiter with enabled := b } }).settle) ∧
    (1 < enable.toNat → exec (.arbiterSet tag enable) s = .next (s.answered p q .badValue []))

/-- With the arbiter enabled, no run, the Feed Link READY and an eligible entry, a step that may complete these
conditions makes the grant: the winner is the first eligible entry of the highest level, its group the eligible
entries of its slot whose head the join set names, the Run Record is set for the new run, START and RUN_BEGIN are
sent, and the group's heads are IN_RUN. Without one of the conditions no grant is made (R88, R89, R90). -/
def Obligations.TheArbiterGrantsTheHighestLevel : Prop :=
  (∀ (s : State) (before after : List QueueEntry) (w : QueueEntry) (plan : Plan),
    s.arbiter.enabled = true → s.run.state = .none → s.run.linkReady = true →
    s.arbiter.queue = before ++ w :: after → s.eligible w = true →
    (∀ e ∈ before, s.eligible e = true → e.level < w.level) → (∀ e ∈ after, s.eligible e = true → e.level ≤ w.level) →
    s.planAt w.slot = some plan →
    let joins := fun e : QueueEntry =>
      e = w ∨ (s.eligible e = true ∧ e.slot = w.slot ∧ plan.joinSet.getLsbD e.head.val = true)
    let number : Half := if s.run.runNumber = 65535 then 1 else s.run.runNumber + 1
    ∃ (group : HeadSet) (queue : List QueueEntry),
      (∀ h : HeadId, group.getLsbD h.val = true ↔ ∃ e ∈ s.arbiter.queue, e.head = h ∧ joins e) ∧
      (queue.Sublist s.arbiter.queue ∧ ∀ e, e ∈ queue ↔ e ∈ s.arbiter.queue ∧ ¬ joins e) ∧
      s.settle.arbiter = { s.arbiter with queue := queue } ∧
      s.settle.run = { s.run with
        runNumber := number, slot := some w.slot, group := group, state := .starting, returnState := none,
        recordCount := 0, exceptions := 0, masks := plan.masks, hold := none, paused := false, tallied := 0,
        abortCause := none, startFailure := none, timer := some 5000 } ∧
      (∀ h, s.settle.head h = { s.head h with
        state := if group.getLsbD h.val then .inRun else (s.head h).state, raised := 0 }) ∧
      s.settle.wire = s.sending [.start number plan.patternId] fun h =>
        onlyIf (group.getLsbD h.val) (.runBegin number (s.head h).enableSet)) ∧
  ∀ s : State, (s.arbiter.enabled = false ∨ s.run.state ≠ .none ∨ s.run.linkReady = false ∨
      ∀ e ∈ s.arbiter.queue, s.eligible e = false) →
    s.settle.arbiter = s.arbiter ∧ s.settle.run = s.run ∧ s.settle.wire = s.wire ∧
      ∀ h, s.settle.head h = { s.head h with raised := 0 }

/-! ## Starting -/

/-- ACCEPT with the current run number in STARTING starts the run: STREAMING, the timer stopped, every READY site of
the group TESTING with the run's slot, number and spares and nothing else, and a RUN_STARTED notice when enabled. Any
other ACCEPT is discarded (R93, R95, R48). A run that ends without starting, by DECLINE or by the ACCEPT timeout:
RUN_STOP to each head of the group, which becomes IDLE with RUN_DECLINED set and gives up its plan use, the sites
unchanged, the start failure kept, the Run Record cleared; on the timeout the Feed Link is SUSPECT (R96, R106). In
other states both change nothing. An ACCEPT or a DECLINE that arrives while a FEED_RESET is pending is discarded (R93,
R107). -/
def Obligations.ARunStartsOrEndsWithoutStarting : Prop :=
  (∀ (n : Half) (s : State), s.run.resetPending = none →
    (∀ (slot : SlotId) (plan : Plan), s.run.state = .starting → s.run.runNumber = n → s.run.slot = some slot →
      s.planAt slot = some plan →
      ∃ u : State, exec (.accept n) s = .next u.emit ∧
        u.run = { s.run with state := .streaming, timer := none } ∧
        (∀ h i, u.site h i =
          if s.inGroup h = true ∧ (s.site h i).state = .ready then
            { SiteContext.blank .testing with
              entry := some ⟨slot, n, plan.regions.map fun r => ⟨r.spareRows, r.spareColumns⟩⟩ }
          else s.site h i) ∧
        u.port = (if s.port.config.runNotices then s.queueNotice (.runStarted n slot s.run.group) else s).port ∧
        State.SameBut [.port, .run, .sites] s u) ∧
    (s.run.state ≠ .starting ∨ s.run.runNumber ≠ n → exec (.accept n) s = .next s.emit)) ∧
  (∀ s : State, s.run.resetPending.isSome → (∀ n, exec (.accept n) s = .next s.emit) ∧
    ∀ reason, exec (.decline reason) s = .next s.settle) ∧
  (∀ (s : State) (slot : SlotId),
    let ended := fun (why : StartFailure) (ready : Bool) (u : State) =>
      u.run = { s.run with
        slot := none, group := 0, state := .none, returnState := none, masks := 0, hold := none, paused := false,
        tallied := 0, timer := none, buffer := [], startFailure := some why, linkReady := ready } ∧
      u.gates = .reset ∧ u.wire = s.sending [] (fun h => onlyIf (s.inGroup h) .runStop) ∧
      (∀ h, u.head h = if s.inGroup h then
        { s.head h with state := .idle, flags := (s.head h).flags ||| HeadFlag.runDeclined,
                        raised := (s.head h).raised ||| HeadFlag.runDeclined } else s.head h) ∧
      (∀ i, u.planAt i = s.planAt i ∧ u.useCount i =
        if i = slot then s.useCount i - (allHeads.filter s.inGroup).length else s.useCount i) ∧
      u.store.classMap = s.store.classMap ∧
      State.SameBut [.store, .heads, .run, .gates, .wire] s u
    (s.run.state = .starting → s.run.slot = some slot →
      (∀ reason, s.run.resetPending = none →
        ∃ u, exec (.decline reason) s = .next u.settle ∧ ended (.decline reason) s.run.linkReady u) ∧
      (s.run.timer.isSome → ∃ u, exec .acceptTimeout s = .next u.settle ∧ ended .timeout false u)) ∧
    (s.run.state ≠ .starting →
      (∀ reason, s.run.resetPending = none → exec (.decline reason) s = .next s.settle) ∧
      exec .acceptTimeout s = .next s))

/-! ## The feed -/

/-- A feed record outside STREAMING: discarded with FEED_FAULT in NONE, FEED_FORMAT in STARTING, DECIDING and
DRAINING, buffered in HELD up to 16 and then FEED_OVERRUN, discarded in HALTING (R94, R104). An ill-formed message of
the source, a BLOCK of no byte or of more than 1024 and a GATE_OPEN of limit 0 among them: FEED_FAULT alone in NONE,
nothing in HALTING, FEED_FORMAT in every other state; while a FEED_RESET is pending it is discarded (R93, R107, R188).
A feed record that arrives while a FEED_RESET is pending is discarded as well, and FEED_FAULT is not set (R93, R94,
R107). -/
def Obligations.TheFeedOutsideStreaming : Prop :=
  (∀ (s : State) (c : Instr) (r : FeedRecord),
    ((∃ b, c = .block b ∧ r = .block b ∧ 1 ≤ b.length ∧ b.length ≤ 1024) ∨
      (∃ l, c = .gateOpen l ∧ r = .gateOpen l ∧ l ≠ 0) ∨ (c = .gateClose ∧ r = .gateClose) ∨
      (c = .endRecord ∧ r = .endRecord)) →
    (s.run.resetPending.isSome → exec c s = .next s.emit) ∧
    (s.run.resetPending = none →
    (s.run.state = .none → exec c s =
      .next ({ s with port := { s.port with flags := s.port.flags ||| PartFlag.feedFault } }).emit) ∧
    (s.run.state = .starting ∨ s.run.state = .deciding ∨ s.run.state = .draining →
      exec c s = .next (s.feedFault .feedFormat).emit) ∧
    (s.run.state = .held → s.run.buffer.length < 16 → exec c s =
      .next ({ s with run := { s.run with buffer := s.run.buffer ++ [r] } }).emit) ∧
    (s.run.state = .held → 16 ≤ s.run.buffer.length → exec c s = .next (s.feedFault .feedOverrun).emit) ∧
    (s.run.state = .halting → exec c s = .next s.emit))) ∧
  (∀ (s : State) (c : Instr) (finish : State → State),
    ((∃ bytes, c = .feedMessageIllFormed bytes ∧ finish = State.settle ∧
        ((∃ k, bytes.head? = some k ∧ (k.toNat < 0x11 ∨ 0x18 < k.toNat)) ∨ bytes.length < 3 ∨
          (∃ k hi lo rest, bytes = k :: hi :: lo :: rest ∧ rest.length ≠ (half hi lo).toNat) ∨
          (∃ k hi lo rest, bytes = k :: hi :: lo :: rest ∧
            ((k = 0x11#8 ∧ rest.length ≠ 2) ∨ (k = 0x12#8 ∧ rest.length ≠ 1) ∨
              (k = 0x13#8 ∧ (rest = [] ∨ 1024 < rest.length)) ∨
              (k = 0x14#8 ∧ (rest.length ≠ 2 ∨ rest = [0, 0])) ∨ (0x15 ≤ k.toNat ∧ rest ≠ []))))) ∨
      (∃ payload, c = .block payload ∧ finish = State.emit ∧ (payload = [] ∨ 1024 < payload.length)) ∨
      (c = .gateOpen 0 ∧ finish = State.emit)) →
    (s.run.resetPending.isSome → exec c s = .next (finish s)) ∧
    (s.run.resetPending = none →
      (s.run.state = .none → exec c s =
        .next (finish { s with port := { s.port with flags := s.port.flags ||| PartFlag.feedFault } })) ∧
      (s.run.state = .halting → exec c s = .next (finish s)) ∧
      (s.run.state ≠ .none → s.run.state ≠ .halting → exec c s = .next (finish (s.feedFault .feedFormat)))))

/-- A BLOCK taken in STREAMING is counted and forwarded unread to every head of the group; an END is counted and
forwarded, and the run drains with an empty tally set and the tally timeout (R97, R98, R92). A GATE_OPEN taken in
STREAMING with fewer than 4 levels pushes a level with its limit, pass count 0, the TESTING sites of the group as
entry set and an empty parked set; with 4 levels it raises GATE_OVERFLOW after its forwarding (R113, R114, R97). A
GATE_CLOSE taken in STREAMING: a phantom level closes with UNPARK of its depth and an empty set and DECIDE(EXIT);
without one the decision of the top level begins, with an empty tally collection set and the tally timeout; with no
level GATE_UNDERFLOW is raised (R115, R116, R117). -/
def Obligations.RecordsTakenInStreaming : Prop :=
  (∀ s : State, s.run.resetPending = none → s.run.state = .streaming →
    (∀ payload, 1 ≤ payload.length → payload.length ≤ 1024 → exec (.block payload) s = .next ({ s with
      run := { s.run with recordCount := s.run.recordCount + 1 }
      wire := s.sending [] fun h => onlyIf (s.inGroup h) (.feed (.block payload)) }).emit) ∧
    exec .endRecord s = .next ({ s with
      run := { s.run with recordCount := s.run.recordCount + 1, tallied := 0, state := .draining,
                          timer := some s.port.config.tallyTimeout.toNat }
      wire := s.sending [] fun h => onlyIf (s.inGroup h) (.feed .endRecord) }).emit) ∧
  (∀ (s : State) (limit : Half), s.run.resetPending = none → s.run.state = .streaming → limit ≠ 0 →
    let counted : State := { s with
      run := { s.run with recordCount := s.run.recordCount + 1 }
      wire := s.sending [] fun h => onlyIf (s.inGroup h) (.feed (.gateOpen limit)) }
    (s.gates.levels.length < 4 → ∃ level : GateLevel,
      level.limit = limit.toNat ∧ level.passCount = 0 ∧
      (∀ (h : HeadId) (i : SiteId), (level.entry[h]).getLsbD i.val = true ↔
        s.inGroup h = true ∧ (s.site h i).state = .testing) ∧
      (∀ h : HeadId, level.parked[h] = 0) ∧
      exec (.gateOpen limit) s =
        .next ({ counted with gates := { s.gates with levels := level :: s.gates.levels } }).emit) ∧
    (4 ≤ s.gates.levels.length → exec (.gateOpen limit) s =
      .next (counted.raiseException ⟨.gateOverflow, none, none, none, none, none, none⟩).emit)) ∧
  (∀ s : State, s.run.resetPending = none → s.run.state = .streaming →
    let counted : State := { s with
      run := { s.run with recordCount := s.run.recordCount + 1 }
      wire := s.sending [] fun h => onlyIf (s.inGroup h) (.feed .gateClose) }
    (0 < s.gates.phantom → exec .gateClose s = .next ({ s with
      run := { s.run with recordCount := s.run.recordCount + 1 }
      gates := { s.gates with phantom := s.gates.phantom - 1 }
      wire := s.sending [.decideExit] fun h =>
        if s.inGroup h then [.feed .gateClose, .unpark (4 + s.gates.phantom) 0] else [] }).emit) ∧
    (s.gates.phantom = 0 → s.gates.levels ≠ [] → exec .gateClose s = .next ({ counted with
      run := { s.run with recordCount := s.run.recordCount + 1, state := .deciding,
                          timer := some s.port.config.tallyTimeout.toNat }
      gates := { s.gates with collected := Vector.replicate 4 none } }).emit) ∧
    (s.gates.phantom = 0 → s.gates.levels = [] → exec .gateClose s =
      .next (counted.raiseException ⟨.gateUnderflow, none, none, none, none, none, none⟩).emit))

/-! ## Abort -/

/-- RUN_ABORT: refused in NONE; answered OK with no effect in HALTING; otherwise the abort begins with cause HOST:
HALT to the source, RUN_STOP to the group, the buffer, the hold, the return state, the paused mark and the tally set
gone, and HALTING with a timer of 50 ms (R103, R101). A fault sets its flag in the Exception Word and the part flag
FEED_FAULT, and begins the abort with cause FEED from any state of the run but NONE and HALTING; it writes no Hold
Record (R129, R101). RUN_DROP_HEAD of an IN_RUN head drops it with cause HOST and is refused with WRONG_STATE
otherwise; RUN_SET_MASK replaces the seven masks of a run, and is refused for an eighth name and then in NONE (R108,
R130). -/
def Obligations.AbortsDropsAndMasksByRequest : Prop :=
  ((∀ tag : Byte, WhenTaken (.runAbort tag) fun q p s =>
    (s.run.state = .none → exec (.runAbort tag) s = .next (s.answered p q .wrongState [])) ∧
    (s.run.state = .halting → exec (.runAbort tag) s = .next (s.answered p q .ok [])) ∧
    (s.run.state ≠ .none → s.run.state ≠ .halting → exec (.runAbort tag) s = .next { s.answered p q .ok [] with
      run := { s.run with abortCause := some .host, buffer := [], hold := none, returnState := none, paused := false,
                          tallied := 0, state := .halting, timer := some 5000 }
      wire := s.sending [.halt] fun h => onlyIf (s.inGroup h) .runStop })) ∧
  (∀ (s : State) (f : RunFault), s.run.state ≠ .none → s.run.state ≠ .halting →
    s.feedFault f = { s with
      port := { s.port with flags := s.port.flags ||| PartFlag.feedFault }
      run := { s.run with
        exceptions := s.run.exceptions ||| (match f with
          | .feedFormat => 0x080#9
          | .feedOverrun => 0x100#9)
        abortCause := some .feed, buffer := [], hold := none, returnState := none, paused := false, tallied := 0,
        state := .halting, timer := some 5000 }
      wire := s.sending [.halt] fun h => onlyIf (s.inGroup h) .runStop })) ∧
  ((∀ (tag : Byte) (h : HeadId), WhenTaken (.runDropHead tag (byteOf h.val)) fun q p s =>
    ((s.head h).state ≠ .inRun →
      exec (.runDropHead tag (byteOf h.val)) s = .next (s.answered p q .wrongState [])) ∧
    ((s.head h).state = .inRun → ∃ u, u = ({ s with port := p }).dropHead h .host ∧
      exec (.runDropHead tag (byteOf h.val)) s = .next (u.replied u.port q .ok []).settle)) ∧
  ∀ tag masks : Byte, WhenTaken (.runSetMask tag masks) fun q p s =>
    (127 < masks.toNat → exec (.runSetMask tag masks) s = .next (s.answered p q .badValue [])) ∧
    (masks.toNat ≤ 127 → s.run.state = .none →
      exec (.runSetMask tag masks) s = .next (s.answered p q .wrongState [])) ∧
    (masks.toNat ≤ 127 → s.run.state ≠ .none → exec (.runSetMask tag masks) s =
      .next { s.answered p q .ok [] with run := { s.run with masks := masks.setWidth 7 } }))

/-- What every run end does beside its cause: sites in play become ENDED, heads of the group ANALYSIS, AUTO jobs in
ascending head number under auto-analyse, RUN_ENDED when enabled, the Run Record and the Gate Unit emptied. A normal
end leaves the aborted flag clear; the end of an aborted run sets it with cause HOST or FEED, and ends READY sites too
(R100, R102, R55, R56, R65). HALTED and the HALT timeout end an aborted run in HALTING, the timeout with the Feed Link
SUSPECT (R102, R106). A HALTED in another state, or while a FEED_RESET is pending, is discarded (R93, R107). -/
def Obligations.RunsEnd : Prop :=
  (∀ (s : State) (slot : SlotId) (plan : Plan), s.run.slot = some slot → s.planAt slot = some plan →
    let e : RunEntry := ⟨slot, s.run.runNumber, plan.regions.map fun r => ⟨r.spareRows, r.spareColumns⟩⟩
    let cause : AbortCause := if s.run.abortCause = some .feed then .feed else .host
    let ends := fun (t : State) (abort : Option RunAbort) (site : SiteContext → SiteContext) =>
      t.run = { s.run with
        slot := none, group := 0, state := .none, returnState := none, masks := 0, hold := none, paused := false,
        tallied := 0, timer := none, buffer := [] } ∧
      t.gates = .reset ∧
      (∀ h, t.head h = if s.inGroup h then { s.head h with state := .analysis } else s.head h) ∧
      (∀ h i, t.site h i = if s.inGroup h then site (s.site h i) else s.site h i) ∧
      t.alloc = { s.alloc with jobs := s.alloc.jobs ++ if plan.autoAnalyse then
        (allHeads.filter s.inGroup).map fun h => ⟨h, plan.autoBudget, false, .auto⟩ else [] } ∧
      t.port = (if s.port.config.runNotices then
        s.queueNotice (.runEnded s.run.runNumber abort s.run.exceptions) else s).port ∧
      State.SameBut [.port, .heads, .run, .gates, .sites, .alloc] s t
    ends s.normalEnd none (fun c =>
      if c.state = .testing ∨ c.state = .parked ∨ c.state = .dropped then { c with state := .ended, parkLevel := none }
      else c) ∧
    ends s.abortedEnd s.run.abortCause (fun c =>
      if c.state = .testing ∨ c.state = .parked ∨ c.state = .dropped then
        { c with state := .ended, parkLevel := none, aborted := some cause }
      else if c.state = .ready then { SiteContext.blank .ended with entry := some e, aborted := some cause }
      else c)) ∧
  ∀ s : State,
    (s.run.state = .halting → s.run.resetPending = none → exec .halted s = .next s.abortedEnd.settle) ∧
    (s.run.state ≠ .halting → s.run.resetPending = none → exec .halted s = .next s.settle) ∧
    (s.run.resetPending.isSome → exec .halted s = .next s.settle) ∧
    (s.run.state = .halting → s.run.timer.isSome → ∃ u, exec .haltTimeout s = .next u.settle ∧
      u = { s.abortedEnd with run := { s.abortedEnd.run with linkReady := false } }) ∧
    (s.run.state ≠ .halting → exec .haltTimeout s = .next s)

/-! ## Drops -/

/-- A drop of a group head: it leaves the group, the tally sets and every level; its sites in play become ENDED with
the cause, and READY ones in the same way with the run's slot, number and spares; RUN_STOP is sent, the head is
ANALYSIS with its plan use and DROPPED is set. Then an emptied group aborts the run, and in DECIDING or DRAINING a
complete tally decides or ends it. A head outside the group is not dropped (R109, R110, R126, R56). -/
def Obligations.ADropRemovesTheHead : Prop :=
  ∀ (s : State) (h : HeadId) (cause : AbortCause) (slot : SlotId) (plan : Plan),
    s.run.slot = some slot → s.planAt slot = some plan →
    (s.inGroup h = false → s.dropHead h cause = s) ∧
    (s.inGroup h = true → ∃ u : State,
      (∀ k, u.inGroup k = (s.inGroup k && k != h)) ∧
      (∀ k : HeadId, u.run.tallied.getLsbD k.val = (s.run.tallied.getLsbD k.val && k != h)) ∧
      u.run = { s.run with group := u.run.group, tallied := u.run.tallied } ∧
      (∀ k : HeadId, u.gates.collected[k] = if k = h then none else s.gates.collected[k]) ∧
      u.gates.levels = s.gates.levels.map (fun l =>
        { l with entry := upd l.entry h fun _ => 0, parked := upd l.parked h fun _ => 0 }) ∧
      u.gates.phantom = s.gates.phantom ∧
      (∀ k i, u.site k i = if k ≠ h then s.site k i
        else if (s.site h i).inPlay then { s.site h i with state := .ended, parkLevel := none, aborted := some cause }
        else if (s.site h i).state = .ready then
          { SiteContext.blank .ended with
            entry := some ⟨slot, s.run.runNumber, plan.regions.map fun r => ⟨r.spareRows, r.spareColumns⟩⟩
            aborted := some cause }
        else s.site h i) ∧
      (∀ k, u.head k = if k ≠ h then s.head k
        else { s.head h with state := .analysis, flags := (s.head h).flags ||| HeadFlag.dropped,
                             raised := (s.head h).raised ||| HeadFlag.dropped }) ∧
      u.wire = s.sending [] (fun k => onlyIf (k == h) .runStop) ∧
      State.SameBut [.heads, .run, .gates, .sites, .wire] s u ∧
      (u.run.group = 0 → s.dropHead h cause = u.abortRun .groupEmpty) ∧
      (u.run.group ≠ 0 → u.run.state = .deciding → u.allCollected = true → s.dropHead h cause = u.makeDecision) ∧
      (u.run.group ≠ 0 → u.run.state = .draining → u.allTallied = true → s.dropHead h cause = u.normalEnd) ∧
      (u.run.group ≠ 0 → (u.run.state = .deciding → u.allCollected = false) →
        (u.run.state = .draining → u.allTallied = false) → s.dropHead h cause = u))

/-! ## Run exceptions -/

/-- A raise by mask and run state: it sets its flag; masked it is defaulted at once, unmasked it holds the run from
STREAMING, DECIDING or DRAINING; in HELD it sets the more mark and is defaulted, in HALTING it is defaulted; no run
takes it in NONE or STARTING (R131, R132). A raise that a fail word handed on, when the Run Controller takes it: in
NONE, or in a run of another number than its own, it is discarded; otherwise it is raised with the details of its
word; the raises that wait are taken in their order, each whole (R133, R128; among several words, log 29). When the
unmasked WATCH of a word holds the run, the second exception of the word is taken in that HELD, whenever they are
taken: its flag is set, its default applied at once and the more mark set, and the Hold Record keeps the WATCH (R19,
R133). -/
def Obligations.RaisesByMaskAndRunState : Prop :=
  (∀ (s : State) (r : Raise),
    let bit := r.cause.bit
    let flagged : State := { s with run := { s.run with exceptions := s.run.exceptions ||| (1#9 <<< bit) } }
    let active := s.run.state = .streaming ∨ s.run.state = .deciding ∨ s.run.state = .draining
    (active → s.run.masks.getLsbD bit = true → s.raiseException r = flagged.applyDefault r) ∧
    (active → s.run.masks.getLsbD bit = false → s.raiseException r = flagged.holdRun r) ∧
    (s.run.state = .held → s.raiseException r = ({ flagged with run := { flagged.run with
      hold := s.run.hold.map fun x : HoldRecord => { x with more := true } } }).applyDefault r) ∧
    (s.run.state = .halting → s.raiseException r = flagged.applyDefault r) ∧
    (s.run.state = .none ∨ s.run.state = .starting → s.raiseException r = s)) ∧
  (∀ (s : State) (n : Half) (cause : FailCause) (h : HeadId) (i : SiteId) (k : Option Nat) (row column : Half)
      (follows : Bool),
    let r : HandedRaise := ⟨n, cause, h, i, k, row, column, follows⟩
    (s.run.state = .none ∨ s.run.runNumber ≠ n → s.takeRaise r = s) ∧
    (s.run.state ≠ .none → s.run.runNumber = n → s.takeRaise r = s.raiseException
      ⟨match cause with
        | .watch => .watch
        | .unmapped => .unmapped
        | .quota => .quota
        | .tableFull => .tableFull, some h, some i, k, some row, some column, none⟩)) ∧
  (∀ s : State, (s.capture.raises = [] → s.takeRaises = s) ∧
    ∀ r rest, s.capture.raises = r :: rest →
      s.takeRaises = (({ s with capture := { s.capture with raises := rest } }).takeRaise r).takeRaises) ∧
  ∀ (s : State) (first second : HandedRaise) (rest : List HandedRaise),
    s.pending = [] → s.capture.raises = first :: second :: rest → first.cause = .watch → second.cause ≠ .watch →
    second.follows = true → (∀ x, rest.head? = some x → x.follows = false) → first.runNumber = s.run.runNumber →
    second.runNumber = s.run.runNumber →
    s.run.state = .streaming ∨ s.run.state = .deciding ∨ s.run.state = .draining →
    s.run.masks.getLsbD Cause.watch.bit = false →
    ∃ t, step s = .next t ∧ t.capture.raises = rest ∧ t.run.state = .held ∧ t.run.returnState = some s.run.state ∧
      t.run.exceptions = s.run.exceptions ||| (1#9 <<< Cause.watch.bit) ||| (1#9 <<< second.raise.cause.bit) ∧
      t.run.hold = some ⟨first.raise, s.run.recordCount, s.gates.levels.length, s.gates.phantom, true⟩ ∧
      t.sites = (s.applyDefault second.raise).sites

/-- A hold writes the Hold Record with the counts at the raise, sets the return state, pauses a source that is not
paused when it holds from STREAMING, stops the timer and queues RUN_HELD when enabled (R134, R135). The defaults:
GATE_OVERFLOW counts a phantom level up to 65535, GATE_UNDERFLOW sends DECIDE(EXIT), TABLE_FULL and QUOTA order
capture_lost on a site that holds the run's number and is TESTING, PARKED, DROPPED or ENDED, and UNMAPPED and WATCH do
nothing; TALLY_LATE drops each group head still missing, in ascending head number (R128, R52; the order is log 22). -/
def Obligations.HoldsAndDefaultActions : Prop :=
  (∀ (s : State) (r : Raise),
    let record : HoldRecord := ⟨r, s.run.recordCount, s.gates.levels.length, s.gates.phantom, false⟩
    let pauses : Bool := s.run.state == .streaming && !s.run.paused
    s.holdRun r = { s with
      port := (if s.port.config.runNotices then
        s.queueNotice (.runHeld s.run.runNumber s.run.state record) else s).port
      run := { s.run with hold := some record, returnState := some s.run.state, paused := s.run.paused || pauses,
                          timer := none, state := .held }
      wire := s.sending (onlyIf pauses .pause) fun _ => [] }) ∧
  (∀ (s : State) (r : Raise),
    (r.cause = .gateOverflow → s.applyDefault r =
      { s with gates := { s.gates with phantom := if s.gates.phantom < 65535 then s.gates.phantom + 1 else 65535 } }) ∧
    (r.cause = .gateUnderflow → s.applyDefault r = { s with wire := s.sending [.decideExit] fun _ => [] }) ∧
    (r.cause = .unmapped ∨ r.cause = .watch → s.applyDefault r = s) ∧
    (∀ h i, r.cause = .tableFull ∨ r.cause = .quota → r.head = some h → r.site = some i →
      s.applyDefault r = s.onSite h i fun c =>
        if (∃ e, c.entry = some e ∧ e.runNumber = s.run.runNumber) ∧
            (c.state = .testing ∨ c.state = .parked ∨ c.state = .dropped ∨ c.state = .ended) then
          { c with captureLost := true }
        else c) ∧
    (r.cause = .tallyLate → s.applyDefault r =
      allHeads.foldl (fun t h => if s.missingHeads.getLsbD h.val then t.dropHead h .tally else t) s))

/-- RESUME with the run not HELD is refused with WRONG_STATE. With the run HELD it ends the hold, applies the held
default in the return state, completes a decision or an end or restarts the tally timeout, takes the buffered records,
sends CONTINUE to a paused source once the buffer is empty, and is answered OK (R137, R138, R139). The replay takes
the buffered records from the front, each as a record that arrives in the state the run is then in, until none is left
or the run is HELD, HALTING or over; the records not taken stay in the buffer (R139, R105). -/
def Obligations.ResumeAndItsReplay : Prop :=
  (∀ tag : Byte, WhenTaken (.resume tag) fun q p s =>
    (s.run.state ≠ .held → exec (.resume tag) s = .next (s.answered p q .wrongState [])) ∧
    ∀ (hold : HoldRecord) (ret : RunState), s.run.state = .held → s.run.hold = some hold →
      s.run.returnState = some ret → ∃ a b c u : State,
      a = ({ s with port := p, run := { s.run with hold := none, returnState := none, state := ret } }).applyDefault
        hold.raised ∧
      (a.run.state = .deciding → a.allCollected = true → b = a.makeDecision) ∧
      (a.run.state = .draining → a.allTallied = true → b = a.normalEnd) ∧
      (a.run.state = .deciding ∧ a.allCollected = false ∨ a.run.state = .draining ∧ a.allTallied = false →
        b = { a with run := { a.run with timer := some a.port.config.tallyTimeout.toNat } }) ∧
      (a.run.state ≠ .deciding → a.run.state ≠ .draining → b = a) ∧
      c = State.replay b.run.buffer b ∧
      (c.run.buffer = [] → c.run.paused = true →
        c.run.state ≠ .held → c.run.state ≠ .halting → c.run.state ≠ .none →
        u = { c with run := { c.run with paused := false }, wire := c.sending [.continue] fun _ => [] }) ∧
      (c.run.buffer ≠ [] ∨ c.run.paused = false ∨ c.run.state = .held ∨ c.run.state = .halting ∨
        c.run.state = .none → u = c) ∧
      exec (.resume tag) s = .next (u.replied u.port q .ok []).settle) ∧
  ((∀ s : State, State.replay [] s = s) ∧
  (∀ (s : State) (r : FeedRecord) (rest : List FeedRecord),
    (s.run.state = .held ∨ s.run.state = .halting ∨ s.run.state = .none → State.replay (r :: rest) s = s) ∧
    (s.run.state = .streaming → State.replay (r :: rest) s =
      State.replay rest (({ s with run := { s.run with buffer := rest } }).takeRecord r)) ∧
    (s.run.state = .starting ∨ s.run.state = .deciding ∨ s.run.state = .draining → State.replay (r :: rest) s =
      ({ s with run := { s.run with buffer := rest } }).feedFault .feedFormat)) ∧
  ∀ s : State, (State.replay s.run.buffer s).run.buffer.length ≤ s.run.buffer.length)

/-! ## FEED_RESET -/

/-- FEED_RESET is refused outside NONE and with one pending; otherwise the Feed Link is SUSPECT with a reset pending,
LINK_RESET is sent and the timer set to 50 ms, and the reply waits. RESET_DONE makes the link READY and answers OK,
the expiry leaves it SUSPECT and answers NO_ANSWER; with none pending both change nothing (R107). -/
def Obligations.FeedResetAndItsEnds : Prop :=
  (∀ tag : Byte, WhenTaken (.feedReset tag) fun q p s =>
    (s.run.state ≠ .none ∨ s.run.resetPending.isSome →
      exec (.feedReset tag) s = .next (s.answered p q .wrongState [])) ∧
    (s.run.state = .none → s.run.resetPending = none → exec (.feedReset tag) s = .next { s.takenBy p with
      run := { s.run with linkReady := false, resetPending := some tag, timer := some 5000 }
      wire := s.sending [.linkReset] fun _ => [] })) ∧
  ∀ (s : State) (tag : Byte),
    let ends := fun (ready : Bool) (st : Status) => ({ s with
      run := { s.run with resetPending := none, timer := none, linkReady := ready }
      port := { s.port with replies := s.port.replies ++ [(⟨0x38#8, tag, st, [], true⟩ : Reply)] } } : State)
    (s.run.resetPending = some tag →
      exec .resetDone s = .next (ends true .ok).settle ∧
      (s.run.timer.isSome → exec .feedResetTimeout s = .next (ends false .noAnswer).emit)) ∧
    (s.run.resetPending = none →
      exec .resetDone s = .next s.settle ∧ exec .feedResetTimeout s = .next s)

/-! ## Tallies and decisions -/

/-- A pass tally is recorded in DECIDING, and in HELD with return state DECIDING, when its head is in the group and
has not tallied and its depth and pass number are the current ones; complete in DECIDING, the decision is made. Every
other pass tally is discarded (R118, R120). An END_TALLY of a group head is added to the tally set in DRAINING, and in
HELD with return state DRAINING; complete in DRAINING, the run ends normally. Every other END_TALLY is discarded (R99,
R100). The run timer's expiry in DECIDING or DRAINING raises TALLY_LATE with the group heads that have not tallied,
the timer stopped; with no timer running in that state the expiry changes nothing (R119, R99, R128). -/
def Obligations.TalliesAndTheirTimeouts : Prop :=
  (∀ (s : State) (h : HeadId) (depth pass : Half) (matched : SiteSet),
    (s.head h).link = .locked → (s.head h).awaitMark = false →
    let taken := s.run.state = .deciding ∨ (s.run.state = .held ∧ s.run.returnState = some .deciding)
    let matches_ := s.inGroup h = true ∧ depth.toNat = s.gates.levels.length ∧
      (∃ top below, s.gates.levels = top :: below ∧ pass.toNat = top.passCount + 1) ∧ s.gates.collected[h] = none
    let recorded : State := { s with gates := { s.gates with
      collected := upd s.gates.collected h fun _ => some matched } }
    (taken → matches_ → s.run.state = .deciding → recorded.allCollected = true →
      exec (.passTally h depth pass matched) s = .next recorded.makeDecision.emit) ∧
    (taken → matches_ → (s.run.state = .held ∨ recorded.allCollected = false) →
      exec (.passTally h depth pass matched) s = .next recorded.emit) ∧
    (¬ taken ∨ ¬ matches_ → exec (.passTally h depth pass matched) s = .next s)) ∧
  (∀ (s : State) (h : HeadId), (s.head h).link = .locked → (s.head h).awaitMark = false →
    let taken := (s.run.state = .draining ∨ (s.run.state = .held ∧ s.run.returnState = some .draining)) ∧
      s.inGroup h = true
    let added : State := { s with run := { s.run with tallied := s.run.tallied ||| (1#4 <<< h.val) } }
    (taken → s.run.state = .draining → added.allTallied = true →
      exec (.endTally h) s = .next added.normalEnd.settle) ∧
    (taken → (s.run.state = .held ∨ added.allTallied = false) → exec (.endTally h) s = .next added.settle) ∧
    (¬ taken → exec (.endTally h) s = .next s)) ∧
  (∀ (s : State) (missing : HeadSet),
    let late : State :=
      ({ s with run := { s.run with timer := none } }).raiseException
        ⟨.tallyLate, none, none, none, none, none, some missing⟩
    (s.run.state = .deciding → s.run.timer.isSome → missing ≠ 0 →
      (∀ h : HeadId, missing.getLsbD h.val = (s.inGroup h && (s.gates.collected[h]).isNone)) →
      exec .tallyTimeoutDeciding s = .next late.settle) ∧
    (s.run.state = .draining → s.run.timer.isSome → missing ≠ 0 → missing = s.run.group &&& ~~~s.run.tallied →
      exec .tallyTimeoutDraining s = .next late.settle) ∧
    (s.run.state ≠ .deciding ∨ s.run.timer = none → exec .tallyTimeoutDeciding s = .next s) ∧
    (s.run.state ≠ .draining ∨ s.run.timer = none → exec .tallyTimeoutDraining s = .next s))

/-- A decision: the top level's pass count rises; its TESTING sites in the match sets park; with no site left, or at
the limit, it exits, every site of its parked set TESTING again; otherwise it repeats. At the limit the sites left
expire and, under DROP, become DROPPED. Each head of the group is sent PARK, then DROP when it has sites dropped, then
UNPARK on exit. The run streams, the timer stopped and the tally collection set empty (R120 to R125). -/
def Obligations.ADecisionParksThenExitsOrRepeats : Prop :=
  ∀ (s : State) (top : GateLevel) (below : List GateLevel) (plan : Plan) (exit : Bool),
    s.gates.levels = top :: below → s.runPlan = some plan →
    let depth := below.length + 1
    let was := fun (h : HeadId) (i : SiteId) => (s.site h i).state
    let parks := fun (h : HeadId) (i : SiteId) => s.inGroup h = true ∧ (top.entry[h]).getLsbD i.val = true ∧
      was h i = .testing ∧ ∃ m, s.gates.collected[h] = some m ∧ m.getLsbD i.val = true
    let left := fun (h : HeadId) (i : SiteId) => s.inGroup h = true ∧ (top.entry[h]).getLsbD i.val = true ∧
      was h i = .testing ∧ ¬ parks h i
    let exits := exit = true
    let expires := (∃ h i, left h i) ∧ top.passCount + 1 = top.limit
    let t := s.makeDecision
    (exit = true ↔ (∀ h i, ¬ left h i) ∨ top.passCount + 1 = top.limit) →
    (∃ park drop unpark : HeadId → SiteSet,
      (∀ (h : HeadId) (i : SiteId), ((park h).getLsbD i.val = true ↔ parks h i) ∧
        ((drop h).getLsbD i.val = true ↔ expires ∧ plan.expiry = .drop ∧ left h i) ∧
        (s.inGroup h = true →
          ((unpark h).getLsbD i.val = true ↔ parks h i ∨ (top.parked[h]).getLsbD i.val = true))) ∧
      t.wire.toHead = (s.sending [] fun h => if s.inGroup h then
        [.park depth (top.passCount + 1) (park h)] ++ (if drop h = 0 then [] else [.drop depth (drop h)]) ++
          onlyIf exit (.unpark depth (unpark h)) else []).toHead) ∧
    (∀ h i, (t.site h i).expired = true ↔ (s.site h i).expired = true ∨ (expires ∧ left h i)) ∧
    (∀ h i, (¬ expires ∨ plan.expiry = .continue) → left h i → (top.parked[h]).getLsbD i.val = false →
      (t.site h i).state = .testing) ∧
    (∀ h i, expires → plan.expiry = .drop → left h i → (top.parked[h]).getLsbD i.val = false →
      (t.site h i).state = .dropped) ∧
    (exits → t.gates.levels = below ∧ t.wire.toSource = s.wire.toSource ++ [.decideExit] ∧
      ∀ h i, s.inGroup h = true → (parks h i ∨ (top.parked[h]).getLsbD i.val = true) →
        (t.site h i).state = .testing ∧ (t.site h i).parkLevel = none) ∧
    (¬ exits → t.wire.toSource = s.wire.toSource ++ [.decideRepeat] ∧
      (∃ l, t.gates.levels = l :: below ∧ l.limit = top.limit ∧ l.passCount = top.passCount + 1 ∧
        l.entry = top.entry ∧ ∀ (h : HeadId) (i : SiteId), (l.parked[h]).getLsbD i.val = true ↔
          (top.parked[h]).getLsbD i.val = true ∨ parks h i) ∧
      ∀ h i, parks h i → (t.site h i).state = .parked ∧ (t.site h i).parkLevel = some depth) ∧
    (∀ h i, ¬ parks h i → ¬ left h i → ((top.parked[h]).getLsbD i.val = false ∨ ¬ exits) → t.site h i = s.site h i) ∧
    t.run = { s.run with timer := none, state := .streaming } ∧ t.gates.phantom = s.gates.phantom ∧
    (∀ h : HeadId, t.gates.collected[h] = none) ∧ State.SameBut [.run, .gates, .sites, .wire] s t

/-! ## Fail words -/

/-- A fail word is discarded, and nothing changes, when its frame is not decoded, a field is out of range, its head is
not IN_RUN or its site not TESTING; otherwise it is taken and counts once in the fail count of its site, up to 65535
(R5, R6, R148, R187). It changes its site, the table, the Watch List and the port alone; its raises are handed to the
Run Controller, which takes them in the same step or later (R133, log 29). The region of a fail word is the first
descriptor that holds its address. With none the unmapped count rises, up to 255, and UNMAPPED is raised with no
region; IGNORE does nothing more, STRICT sets strict_fail, and an ANALYSE region of a site marked no_repair or
capture_lost has no further effect (R7, R8, R9). -/
def Obligations.FailWordsAreCheckedThenSortedByRegion : Prop :=
  ((∀ (h : HeadId) (site bank : Byte) (row column : Half) (waits : Bool) (s : State),
    ((s.head h).link ≠ .locked ∨ (s.head h).awaitMark = true ∨ 31 < site.toNat ∨ 15 < bank.toNat ∨ 4095 < column.toNat ∨
      (s.head h).state ≠ .inRun ∨ ∃ i : SiteId, site = byteOf i.val ∧ (s.site h i).state ≠ .testing) →
    exec (.fail ⟨h, waits⟩ site bank row column) s = .next s) ∧
  ∀ (w : FailWord) (s : State), (s.head w.head).link = .locked → (s.head w.head).awaitMark = false →
    w.bank.toNat ≤ 15 → w.column.toNat ≤ 4095 → (s.head w.head).state = .inRun →
    (s.site w.head w.site).state = .testing → ∃ t, w.Makes s t ∧
      (t.site w.head w.site).failCount = (if (s.site w.head w.site).failCount < 65535
        then (s.site w.head w.site).failCount + 1 else 65535) ∧
      (∀ h i, (h ≠ w.head ∨ i ≠ w.site) → t.site h i = s.site h i) ∧
      State.SameBut [.port, .capture, .sites] s t) ∧
  (∀ (w : FailWord) (s : State) (plan : Plan), (s.head w.head).link = .locked → (s.head w.head).awaitMark = false →
    w.bank.toNat ≤ 15 → w.column.toNat ≤ 4095 → (s.head w.head).state = .inRun →
    (s.site w.head w.site).state = .testing → s.sitePlan (s.site w.head w.site) = some plan →
    let holds := fun r : Region => r.bank = w.bank ∧ r.rowBase ≤ w.row ∧ w.row ≤ r.rowLimit ∧
      r.columnBase ≤ w.column ∧ w.column ≤ r.columnLimit
    let u := s.watched w
    ((∀ r ∈ plan.regions, ¬ holds r) → w.Makes s ((u.onSite w.head w.site fun c => { c with
      unmappedCount := if c.unmappedCount < 255 then c.unmappedCount + 1 else 255 }).handing w .unmapped none)) ∧
    ∀ (before after : List Region) (r : Region), plan.regions = before ++ r :: after → (∀ x ∈ before, ¬ holds x) →
      holds r →
      (r.policy = .ignore → w.Makes s u) ∧
      (r.policy = .strict → w.Makes s (u.onSite w.head w.site fun c => { c with strictFail := true })) ∧
      (r.policy = .analyse → (s.site w.head w.site).noRepair = true ∨ (s.site w.head w.site).captureLost = true →
        w.Makes s u))

/-- The watch check of a fail word that is taken: the hit flag of every valid entry that matches it, one WATCH_HIT
notice with the set of their indices when enabled, and one raise of WATCH, with no region, handed on (log 29) when one
of them holds; with no match only the fail count has changed (R22). -/
def Obligations.TheWatchCheckMarksNoticesAndRaises : Prop :=
  ∀ (w : FailWord) (s : State) (hit : Fin 4 → Bool) (set : BitVec 4),
    (∀ k : Fin 4, let e := s.capture.watches[k]
      hit k = true ↔ e.valid = true ∧ e.head = w.head ∧ (e.site = none ∨ e.site = some w.site) ∧ e.bank = w.bank ∧
        e.row = w.row ∧ (e.column = none ∨ e.column = some w.column)) →
    (∀ k : Fin 4, set.getLsbD k.val = hit k) →
    let counted := s.onSite w.head w.site fun c =>
      { c with failCount := if c.failCount < 65535 then c.failCount + 1 else 65535 }
    let marked : State := { counted with
      capture := { s.capture with watches := Vector.ofFn fun k =>
        { s.capture.watches[k] with hit := s.capture.watches[k].hit || hit k } }
      port := (if s.port.config.watchNotices then
        s.queueNotice (.watchHit w.head w.site w.bank w.row w.column set) else s).port }
    ((∀ k, hit k = false) → s.watched w = counted) ∧
    ((∃ k, hit k = true) → (∀ k : Fin 4, hit k = true → s.capture.watches[k].hold = false) → s.watched w = marked) ∧
    ((∃ k : Fin 4, hit k = true ∧ s.capture.watches[k].hold = true) → s.watched w =
      marked.handing w .watch none)

/-- A fail on a row with a ROW_LINE adds a hit to that line, or else on a column with a COL_LINE to that line, up to
255; a fail of a cell that is held adds a hit to the cell, up to 15. No entry, no spare and no exception (R10,
R11). -/
def Obligations.CoveredAndRepeatedFailsAddAHit : Prop :=
  ∀ (w : FailWord) (k : Nat) (s : State) (x : Nat × Entry), s.Analyses w k → TableLaws s → x ∈ s.capture.table →
    x.2.ofRegion w.head w.site k = true →
    let u := s.watched w
    let hits := fun limit : Nat => w.Makes s (u.withTable (s.capture.table.map fun y =>
      if y.1 = x.1 then (y.1, { y.2 with hits := if y.2.hits < limit then y.2.hits + 1 else limit }) else y))
    (x.2.key = .rowLine w.row → hits 255) ∧
    (x.2.key = .colLine w.column → (∀ y ∈ s.capture.table, y.2.ofRegion w.head w.site k = true →
      y.2.key ≠ .rowLine w.row) → hits 255) ∧
    (x.2.key = .cell w.row w.column → hits 15)

/-- A fail that no entry covers, whose row and column stay within the spares of the other kind, is learned as a CELL
with hits 1 in the first FREE entry; at the quota it raises QUOTA, and with no FREE entry TABLE_FULL, a raise handed
on (log 29), and is not recorded (R12, R13, R16, R17, R18). -/
def Obligations.AFailIsLearnedUnderTheExhaustionCheck : Prop :=
  ∀ (w : FailWord) (k : Nat) (s : State) (plan : Plan), s.Analyses w k → TableLaws s → s.Uncovered w k →
    s.sitePlan (s.site w.head w.site) = some plan →
    (s.cellsInRow w k).length + 1 ≤ ((s.site w.head w.site).sparesOf k).columns →
    (s.cellsInColumn w k).length + 1 ≤ ((s.site w.head w.site).sparesOf k).rows →
    let u := s.watched w
    let raise := fun cause : FailCause => w.Makes s (u.handing w cause (some k))
    ((s.site w.head w.site).entriesHeld = plan.quota → raise .quota) ∧
    ((s.site w.head w.site).entriesHeld ≠ plan.quota → s.capture.table.length = 4096 → raise .tableFull) ∧
    ((s.site w.head w.site).entriesHeld ≠ plan.quota → ∀ i, s.capture.table.FirstFree i → ∃ table : FailTable,
      table.wf = true ∧
      (∀ j, table.read j = if j = i then some ⟨w.head, w.site, k, .cell w.row w.column, 1⟩
        else s.capture.table.read j) ∧
      w.Makes s ((u.withTable table).onSite w.head w.site fun c => { c with entriesHeld := c.entriesHeld + 1 }))

/-- A row with more cells, the new fail included, than spare columns left is promoted when a spare row is left: its
cells are freed, a ROW_LINE with the sum of their hits and one more, up to 255, stands in the first of their entries,
and a spare row is spent. A promotion that frees no cell takes the first FREE entry under the exhaustion check, whose
raise is handed on (log 29). A column that is over the spare rows left is promoted in the same way when its row is not
(R12, R13, R14). -/
def Obligations.RowsAndColumnsArePromoted : Prop :=
  ∀ (w : FailWord) (k : Nat) (s : State) (plan : Plan) (spares : Spares), s.Analyses w k → TableLaws s →
    s.Uncovered w k → s.sitePlan (s.site w.head w.site) = some plan →
    spares = (s.site w.head w.site).sparesOf k →
    let u := s.watched w
    let held := (s.site w.head w.site).entriesHeld
    let raise := fun cause : FailCause => w.Makes s (u.handing w cause (some k))
    let writes := fun (i : Nat) (line : EntryKey) (hits : Nat) (freed : FailTable) (left : Spares) (now : Nat) =>
      ∃ table : FailTable, table.wf = true ∧
        (∀ j, table.read j = if j = i then some ⟨w.head, w.site, k, line, hits⟩
          else if ∃ x ∈ freed, x.1 = j then none else s.capture.table.read j) ∧
        w.Makes s ((u.withTable table).onSite w.head w.site fun c =>
          { c with entriesHeld := now,
                   entry := c.entry.map fun e => { e with spares := e.spares.set k left } })
    let promoted := fun (line : EntryKey) (cells : FailTable) (left : Spares) =>
      (∀ x rest, cells = x :: rest →
        writes x.1 line (Nat.min 255 ((cells.map fun y => y.2.hits).sum + 1)) cells left (held + 1 - cells.length)) ∧
      (cells = [] → held = plan.quota → raise .quota) ∧
      (cells = [] → held ≠ plan.quota → s.capture.table.length = 4096 → raise .tableFull) ∧
      (cells = [] → held ≠ plan.quota → ∀ i, s.capture.table.FirstFree i → writes i line 1 [] left (held + 1))
    (spares.columns < (s.cellsInRow w k).length + 1 → 0 < spares.rows →
      promoted (.rowLine w.row) (s.cellsInRow w k) ⟨spares.rows - 1, spares.columns⟩) ∧
    ((s.cellsInRow w k).length + 1 ≤ spares.columns → spares.rows < (s.cellsInColumn w k).length + 1 →
      0 < spares.columns →
      promoted (.colLine w.column) (s.cellsInColumn w k) ⟨spares.rows, spares.columns - 1⟩)

/-- A fail whose row needs a spare row and finds none left marks its site no_repair: every entry of the site is freed,
entries-held is 0, the fail is not recorded, the spares stay and no exception is raised (R15, R12). A column never
finds its spare columns at 0, since its row then needed a spare row before (R12, R13). -/
def Obligations.AnUnrepairableSiteIsMarkedNoRepair : Prop :=
  ∀ (w : FailWord) (k : Nat) (s : State) (spares : Spares), s.Analyses w k → s.Uncovered w k →
    spares = (s.site w.head w.site).sparesOf k →
    spares.columns < (s.cellsInRow w k).length + 1 → spares.rows = 0 →
    w.Makes s (((s.watched w).withTable (s.capture.table.filter fun x =>
      !(x.2.head == w.head && x.2.site == w.site))).onSite w.head w.site fun c =>
        { c with noRepair := true, entriesHeld := 0 })

/-! ## Analysis -/

/-- ANALYSE is checked for its fields, for a head that is ANALYSIS, and for no job of the head in the queue; a job
that joins stands behind every job, an idle engine takes it, and the request is not answered yet (R64, R66). The end
of a job whose sites are all passed: it leaves the queue, the engine takes the next, the incomplete count is that of
the head's ENDED and INCOMPLETE sites, and with none left the bin frame is loaded and the head is BIN_WAIT before the
HOST job is answered OK, or the AUTO job noticed when enabled, with its three counts (R79, R165). That this end is an
ALLOCATOR_MOVE of its own is the model's choice (log 13). -/
def Obligations.JobsJoinAndEnd : Prop :=
  (∀ (tag head : Byte) (budget : Half) (force : Byte), WhenTaken (.analyse tag head budget force) fun q p s =>
    let run := exec (.analyse tag head budget force) s
    (3 < head.toNat ∨ budget = 0 ∨ 1 < force.toNat → run = .next (s.answered p q .badValue [])) ∧
    ∀ (h : HeadId) (f : Bool), head = byteOf h.val → force = boolByte f → budget ≠ 0 →
      ((s.head h).state ≠ .analysis → run = .next (s.answered p q .wrongState [])) ∧
      ((s.head h).state = .analysis → (∃ j ∈ s.alloc.jobs, j.head = h) →
        run = .next (s.answered p q .duplicate [])) ∧
      ((s.head h).state = .analysis → (∀ j ∈ s.alloc.jobs, j.head ≠ h) → run = .next { s.takenBy p with
        alloc := { jobs := s.alloc.jobs ++ [⟨h, budget, f, .host tag⟩]
                   engine := match s.alloc.engine with
                     | none => some ⟨0, false, 0, 0, none⟩
                     | some e => some e } })) ∧
  (∀ (s : State) (job : Job) (rest : List Job) (e : Engine), s.alloc = ⟨job :: rest, some e⟩ →
    (∀ j : SiteId, e.site ≤ j.val →
      (s.site job.head j).state ≠ .ended ∧ (s.site job.head j).state ≠ .incomplete) →
    let n := ((List.finRange 32).filter fun i =>
      (s.site job.head i).state == .incomplete || (s.site job.head i).state == .ended).length
    let t : State := if n = 0 then s.loadFrame job.head else s
    exec .allocatorMove s = .next ({ t with
      alloc := ⟨rest, if rest = [] then none else some ⟨0, false, 0, 0, none⟩⟩
      port := match job.origin with
        | .host tag => { s.port with replies := s.port.replies ++
            [(⟨0x44#8, tag, .ok, byteOf e.resolved :: byteOf n :: be16OfNat e.used, true⟩ : Reply)] }
        | .auto => (if s.port.config.analysisNotices then
            s.queueNotice (.analysisDone job.head e.resolved n e.used) else s).port }).emit)

/-- A move of the engine on a site that it takes, the first ENDED or INCOMPLETE one from its place on: the first of
aborted, capture_lost, expired, strict_fail, no_repair and entries-held 0 that holds decides the outcome, at no cost
and whatever the steps left (R67, R68). Where none of them holds the engine works from the allocator context, or else
from the start of the first ANALYSE region with the spares left to the site (R78, R69). With no job nothing moves. A
costed move: paid from the steps left it is made and its cost counts, or the site is found unrepairable at that cost;
a move that costs more than the steps left makes the site UNRESOLVED under force, the job going on with no steps left,
and INCOMPLETE otherwise, with the working state before the move in its context, the job ending (R73, R75, R76, R77).
A site that is solved is REPAIRED with its list, region by region: the lines of the table in ascending entry index,
the working lines in the order added, the choices from the bottom of the stack (R74). That one ALLOCATOR_MOVE holds
one such decision or move is the model's choice (log 13). -/
def Obligations.TheEngineDecidesByFlagsAndBudget : Prop :=
  ((∀ s : State, s.alloc = ⟨[], none⟩ → exec .allocatorMove s = .next s.emit) ∧
  ∀ (s : State) (job : Job) (rest : List Job) (e : Engine) (i : SiteId),
    s.alloc = ⟨job :: rest, some e⟩ → e.work = none → e.site ≤ i.val →
    (s.site job.head i).state = .ended ∨ (s.site job.head i).state = .incomplete →
    (∀ j : SiteId, e.site ≤ j.val → j < i →
      (s.site job.head j).state ≠ .ended ∧ (s.site job.head j).state ≠ .incomplete) →
    let c := s.site job.head i
    (∀ o : SiteOutcome, (c.aborted.isSome ∧ o = .aborted ∨
      c.aborted = none ∧ (c.captureLost = true ∧ o = .captureLost ∨
        c.captureLost = false ∧ (c.expired = true ∧ o = .matchExpired ∨
          c.expired = false ∧ (c.strictFail = true ∧ o = .strictFail ∨
            c.strictFail = false ∧ (c.noRepair = true ∧ o = .noRepair ∨
              c.noRepair = false ∧ c.entriesHeld = 0 ∧ o = .pass))))) →
      exec .allocatorMove s = .next ({ s.onSite job.head i fun c =>
          { c with state := .resolved, outcome := some o, repairList := none, context := none } with
        alloc := ⟨job :: rest, some { e with resolved := e.resolved + 1, site := i.val + 1 }⟩ }).emit) ∧
    (c.aborted = none → c.captureLost = false → c.expired = false → c.strictFail = false → c.noRepair = false →
      c.entriesHeld ≠ 0 →
      let from_ := fun w : Work => exec .allocatorMove s =
        exec .allocatorMove { s with alloc := ⟨job :: rest, some { e with work := some w }⟩ }
      (∀ w, c.context = some w → from_ w) ∧
      ∀ (plan : Plan) (entry : RunEntry) (r : Nat) (region : Region) (spares : Spares), c.context = none →
        s.sitePlan c = some plan → c.entry = some entry → plan.regions[r]? = some region → region.policy = .analyse →
        (∀ k < r, ∀ x, plan.regions[k]? = some x → x.policy ≠ .analyse) → entry.spares[r]? = some spares →
        from_ ⟨r, .closure, [], spares, [], []⟩)) ∧
  (∀ (s : State) (job : Job) (rest : List Job) (e : Engine) (i : SiteId) (w : Work) (d : Decision) (plan : Plan)
      (analysed : List Nat),
    s.alloc = ⟨job :: rest, some e⟩ → s.nextSite job.head e.site = some i → e.work = some w →
    s.sitePlan (s.site job.head i) = some plan →
    analysed = ((List.range plan.regions.length).filter fun k => (plan.regions[k]?).any fun x => x.policy == .analyse) →
    d = nextMove (fun r => s.capture.table.cells job.head i r)
      (((s.site job.head i).entry.map RunEntry.spares).getD []) (analysed.filter fun r => decide (w.region < r)) w →
    let left := if e.spent then 0 else job.budget.toNat - e.used
    let resolved := fun (o : SiteOutcome) (list : Option (List RepairLine)) (spent : Bool) (used : Nat) =>
      exec .allocatorMove s = .next ({ s.onSite job.head i fun c =>
          { c with state := .resolved, outcome := some o, repairList := list, context := none } with
        alloc := ⟨job :: rest, some ⟨used, spent, e.resolved + 1, i.val + 1, none⟩⟩ }).emit
    (∀ cost before after, d = .move cost before after → cost ≤ left → exec .allocatorMove s =
      .next ({ s with alloc :=
        ⟨job :: rest, some ⟨e.used + cost, e.spent, e.resolved, i.val, some after⟩⟩ }).emit) ∧
    (∀ cost before, d = .unrepairable cost before → cost ≤ left → resolved .noRepair none e.spent (e.used + cost)) ∧
    (∀ v, d = .solved v →
      let found := v.solved ++ (v.lines ++ v.stack.reverse.map Choice.line).map fun l => (⟨v.region, l⟩ : RepairLine)
      resolved .repaired (some (analysed.flatMap fun r =>
        (s.capture.table.filterMap fun x =>
          if x.2.head = job.head ∧ x.2.site = i ∧ x.2.region = r then
            match x.2.key with
            | .cell _ _ => none
            | .rowLine a => some ⟨r, .row a⟩
            | .colLine a => some ⟨r, .col a⟩
          else none) ++ found.filter fun l => l.region == r)) e.spent e.used) ∧
    (∀ cost before after, d = .move cost before after ∨ d = .unrepairable cost before → left < cost →
      (job.force = true → resolved .unresolved none true e.used) ∧
      (job.force = false → exec .allocatorMove s =
        .next ((s.onSite job.head i fun c => { c with state := .incomplete, context := some before }).endJob job
          e).serve)))

/-- CLOSURE takes the lowest row with more uncovered cells than working columns, or else the lowest column with more
than working rows, for one step and one spare, or finds the site unrepairable when that spare is gone; with neither it
is complete (R70, R75). SEARCH solves the region exactly when every cell is covered; otherwise it takes the first
uncovered cell by row and column and pushes its row, or else its column, for one step and one spare; with neither
spare it backtracks, each pop and the push of an alternative costing one step, and an emptied stack makes the site
unrepairable; the alternative is the column of the first uncovered cell of the stack left by the pop (R71, R72, R73).
The end of CLOSURE passes to SEARCH, and a solved region to the next ANALYSE region with its spares and no line or
choice, at no cost; the last one solves the site (R69, R70). -/
def Obligations.ClosureAndSearchChooseTheirLines : Prop :=
  (∀ (cells : List (Half × Half)) (w : Work),
    let bare := uncovered w.lines w.stack cells
    let rowCount := fun r : Half => (bare.filter fun x => x.1 == r).length
    let colCount := fun c : Half => (bare.filter fun x => x.2 == c).length
    (∀ r, w.spares.columns < rowCount r → (∀ x, x < r → rowCount x ≤ w.spares.columns) →
      closureMove cells w = some (if w.spares.rows = 0 then .unrepairable 0 w
        else .move 1 w { w with lines := w.lines ++ [.row r], spares := ⟨w.spares.rows - 1, w.spares.columns⟩ })) ∧
    (∀ c, (∀ r, rowCount r ≤ w.spares.columns) → w.spares.rows < colCount c →
      (∀ x, x < c → colCount x ≤ w.spares.rows) →
      closureMove cells w = some (if w.spares.columns = 0 then .unrepairable 0 w
        else .move 1 w { w with lines := w.lines ++ [.col c], spares := ⟨w.spares.rows, w.spares.columns - 1⟩ })) ∧
    ((∀ r, rowCount r ≤ w.spares.columns) → (∀ c, colCount c ≤ w.spares.rows) → closureMove cells w = none)) ∧
  ((∀ (cells : List (Half × Half)) (w : Work),
    let covered := fun x : Half × Half =>
      (∃ l ∈ w.lines, l = .row x.1 ∨ l = .col x.2) ∨ ∃ c ∈ w.stack, c.line = .row x.1 ∨ c.line = .col x.2
    (searchMove cells w = none ↔ ∀ x ∈ cells, covered x) ∧
    ∀ r c, (r, c) ∈ cells → ¬ covered (r, c) →
      (∀ x ∈ cells, ¬ covered x → r < x.1 ∨ (r = x.1 ∧ c ≤ x.2)) →
      (0 < w.spares.rows → searchMove cells w = some (.move 1 w
        { w with stack := ⟨.row r, false⟩ :: w.stack, spares := ⟨w.spares.rows - 1, w.spares.columns⟩ })) ∧
      (w.spares.rows = 0 → 0 < w.spares.columns → searchMove cells w = some (.move 1 w
        { w with stack := ⟨.col c, true⟩ :: w.stack, spares := ⟨0, w.spares.columns - 1⟩ })) ∧
      (w.spares.rows = 0 → w.spares.columns = 0 → searchMove cells w = some
        (match unwind (columnUnder cells w.lines) w.stack w.spares 0 with
          | (cost, none) => .unrepairable cost w
          | (cost, some (stack, spares)) => .move cost w { w with stack := stack, spares := spares }))) ∧
  ∀ (column : List Choice → Half) (top : Choice) (rest : List Choice) (sp : Spares) (pops : Nat),
    unwind column [] sp pops = (pops, none) ∧
    (∀ r, top = ⟨.row r, false⟩ → 0 < sp.columns → unwind column (top :: rest) sp pops =
      (pops + 2, some (⟨.col (column rest), true⟩ :: rest, ⟨sp.rows + 1, sp.columns - 1⟩))) ∧
    (∀ r, top.line = .row r → top.tried = true ∨ sp.columns = 0 →
      unwind column (top :: rest) sp pops = unwind column rest ⟨sp.rows + 1, sp.columns⟩ (pops + 1)) ∧
    (∀ c, top.line = .col c →
      unwind column (top :: rest) sp pops = unwind column rest ⟨sp.rows, sp.columns + 1⟩ (pops + 1))) ∧
  (∀ (cells : List (Half × Half)) (lines : List Line) (stack : List Choice) (r c : Half),
    let covered := fun x : Half × Half =>
      (∃ l ∈ lines, l = .row x.1 ∨ l = .col x.2) ∨ ∃ c ∈ stack, c.line = .row x.1 ∨ c.line = .col x.2
    (r, c) ∈ cells → ¬ covered (r, c) → (∀ x ∈ cells, ¬ covered x → r < x.1 ∨ (r = x.1 ∧ c ≤ x.2)) →
      columnUnder cells lines stack = c) ∧
  ∀ (cells : Nat → List (Half × Half)) (spares : List Spares) (later : List Nat) (w : Work),
    (w.phase = .closure →
      (∀ d, closureMove (cells w.region) w = some d → nextMove cells spares later w = d) ∧
      (closureMove (cells w.region) w = none →
        nextMove cells spares later w = nextMove cells spares later { w with phase := .search })) ∧
    (w.phase = .search →
      (∀ d, searchMove (cells w.region) w = some d → nextMove cells spares later w = d) ∧
      (searchMove (cells w.region) w = none →
        (later = [] → nextMove cells spares later w = .solved w) ∧
        ∀ r rest sp, later = r :: rest → spares[r]? = some sp → nextMove cells spares later w =
          nextMove cells spares rest ⟨r, .closure, [], sp, [],
            w.solved ++ (w.lines ++ w.stack.reverse.map Choice.line).map fun l => ⟨w.region, l⟩⟩))

/-! ## The Bin Port -/

/-- The frame leaves the port: absent at position 0, BDATA idle, the stale timer stopped, the event flag set, every
RESOLVED site READY with its flags and counts kept, the head's entries freed, the plan use given up, and the head IDLE
with its link LOCKED, OFFLINE otherwise (R167, R169, R59); nothing else changes. The frame that is loaded: the low
byte of the run number, the head, the codes of sites 31 to 0 from the plan's Outcome Map or its absent code, and the
exclusive OR of these 18 bytes; position 0, BDATA at its first value, the stale timer running when the timeout is not
0, and the head BIN_WAIT (R164, R165, R163). -/
def Obligations.TheBinFrameComesAndGoes : Prop :=
  (∀ (s : State) (h : HeadId) (flag : BitVec 10) (slot : SlotId), s.siteSlot h = some slot →
    let t := s.leaveBinWait h flag
    (t.bin h = { s.bin h with frame := none, position := 0, stale := .stopped,
                              bdata := if (s.bin h).format.val < 2 then .low else .high, leadTaken := false }) ∧
    (t.head h = { s.head h with
      state := if (s.head h).link = .locked then .idle else .offline
      flags := (s.head h).flags ||| flag, raised := (s.head h).raised ||| flag }) ∧
    (∀ i, t.site h i = if (s.site h i).state = .resolved then
        { s.site h i with state := .ready, entry := none, outcome := none, repairList := none, entriesHeld := 0 }
      else { s.site h i with entriesHeld := 0 }) ∧
    t.capture.table = s.capture.table.filter (fun x => x.2.head != h) ∧
    t.capture.watches = s.capture.watches ∧ t.capture.raises = s.capture.raises ∧
    t.store.classMap = s.store.classMap ∧
    (∀ i, t.planAt i = s.planAt i ∧ t.useCount i = if i = slot then s.useCount i - 1 else s.useCount i) ∧
    (∀ k, k ≠ h → t.bin k = s.bin k ∧ t.head k = s.head k ∧ ∀ i, t.site k i = s.site k i) ∧
    State.SameBut [.store, .heads, .capture, .sites, .bins] s t) ∧
  (∀ (s : State) (h : HeadId) (e : RunEntry) (plan : Plan),
    (s.sites[h].toList.findSome? fun c => c.entry) = some e → s.planAt e.slot = some plan →
    ∃ frame : List Byte,
      frame.length = 19 ∧ frame[0]? = some (e.runNumber.setWidth 8) ∧ frame[1]? = some (byteOf h.val) ∧
      frame[18]? = some (xorBytes (frame.take 18)) ∧
      (∀ (i : SiteId) (b : Byte), frame[17 - i.val / 2]? = some b →
        (if i.val % 2 = 1 then b.extractLsb' 4 4 else b.extractLsb' 0 4) =
          match (s.site h i).outcome with
          | some o => if (s.site h i).state = .resolved then plan.outcomeMap[o.index] else plan.absentCode
          | none => plan.absentCode) ∧
      s.loadFrame h = (s.onBin h fun b =>
        { b with frame := some frame, position := 0, stale := if b.timeout = 0 then .stopped else .running,
                 bdata := if b.format.val % 2 = 1 then frameBit frame 1 else if b.format.val < 2 then .low else .high,
                 leadTaken := false }).setHeadState h .binWait)

/-- BCLK edges: without a frame an edge shifts nothing. With one, the leading edge of cycle k presents bit k in
formats 0 and 2; the trailing edge of a cycle whose leading edge was taken completes it, presents bit k + 1 or the
idle level in formats 1 and 3, and delivers the frame at cycle 152; another trailing edge changes nothing (R163, R166,
R167). BIN_DELIVERY completes the cycles that are left and delivers the frame, BCLK ending at its idle level; without
a frame its edges shift nothing (R167, log 11). The expiry of a running stale timer sets BIN_STALE and leaves the
frame where it stands; a timer that does not run does not expire (R168). -/
def Obligations.BclkEdgesDeliveryAndTheStaleTimer : Prop :=
  (∀ (s : State) (h : HeadId) (level : LineLevel),
    let b := s.bin h
    let moved := s.onLines h fun l => { l with bclk := level }
    let idle : LineLevel := if b.format.val < 2 then .low else .high
    let run := exec (.bclkEdge h level) s
    (s.lines[h].bclk = level → run = .next s.report) ∧
    (s.lines[h].bclk ≠ level → b.frame = none → run = .next moved.report) ∧
    ∀ frame, s.lines[h].bclk ≠ level → b.frame = some frame →
      (level ≠ idle → run = .next (moved.onBin h fun b =>
        { b with leadTaken := true, bdata := if b.format.val % 2 = 0 then frameBit frame (b.position + 1)
          else b.bdata }).report) ∧
      (level = idle → b.leadTaken = false → run = .next moved.report) ∧
      (level = idle → b.leadTaken = true →
        let done := moved.onBin h fun b =>
          { b with leadTaken := false, position := b.position + 1,
                   bdata := if b.format.val % 2 = 0 then b.bdata
                     else if b.position + 1 < 152 then frameBit frame (b.position + 2) else idle }
        (b.position + 1 ≠ 152 → run = .next done.report) ∧
        (b.position + 1 = 152 → run = .next (done.leaveBinWait h HeadFlag.binDelivered).report))) ∧
  (∀ (s : State) (h : HeadId),
    let rested := s.onLines h fun l => { l with bclk := if (s.bin h).format.val < 2 then .low else .high }
    ((s.bin h).frame.isSome → exec (.binDelivery h) s =
      .next (rested.leaveBinWait h HeadFlag.binDelivered).report) ∧
    ((s.bin h).frame = none → exec (.binDelivery h) s = .next rested) ∧
    ((s.bin h).stale = .running → exec (.binStaleExpiry h) s =
      .next (((s.onBin h fun b => { b with stale := .expired }).onHead h fun c =>
        { c with flags := c.flags ||| HeadFlag.binStale, raised := c.raised ||| HeadFlag.binStale }).report)) ∧
    ((s.bin h).stale ≠ .running → exec (.binStaleExpiry h) s = .next s))

/-! ## Laws that every step keeps -/

/-- Every step keeps the canonical form of the Fail Table, its first and second laws and the count of the third (R2,
R3); the quota of the third law is in EveryStepKeepsTheQuotaAndTheSpares. -/
def Obligations.EveryStepKeepsTheTableLaws : Prop :=
  ∀ s t : State, TableLaws s → step s = .next t → TableLaws t

/-- Every step keeps the bounds of the run, the buffer and the gates, of the Request Window, the refusals and the
notices, leaves no frame waiting at a free transmitter and no head event unreported, and keeps the engine on the
oldest job within its budget (R91, R104, R111, R112, R135; R174, R175, R178; R177, R158; R66, R73). -/
def Obligations.EveryStepKeepsTheBounds : Prop :=
  (∀ s t : State, RunLaws s → step s = .next t → RunLaws t) ∧
  (∀ s t : State, PortLaws s.port → step s = .next t → PortLaws t.port) ∧
  (∀ s t : State, Reported s → step s = .next t → Reported t) ∧
  ∀ s t : State, EngineLaws s → step s = .next t → EngineLaws t

/-- Every step keeps a head's states bound to its LOCKED link, its supply and its services, IN_RUN to membership of
the group, a queue entry to QUEUED, a job to ANALYSIS, and a bin frame present exactly in BIN_WAIT (the fifth and
sixth laws; R89, R63, R83, R146, R147, R161). -/
def Obligations.EveryStepKeepsTheHeadLaws : Prop :=
  ∀ s t : State, RunLaws s → HeadLaws s → step s = .next t → HeadLaws t

/-- Every step keeps the seventh law: a site is TESTING, PARKED or DROPPED only while its head is IN_RUN, not before
the ACCEPT, and PARKED exactly when the level at its park level holds it in its parked set (R46; R48 for the ACCEPT,
R53, R54 and R124 for the parked sets and the drop, R55 and R56 for the ends). -/
def Obligations.EveryStepKeepsTheSiteLaws : Prop :=
  ∀ s t : State, RunLaws s → HeadLaws s → SiteLaws s → step s = .next t → SiteLaws t

/-- Every step keeps the eighth law: every request that its owner has taken is owed exactly one reply, by the reply
list, a service, a job or a pending FEED_RESET, and no other request is (R175, R176). -/
def Obligations.EveryTakenRequestIsOwedOneReply : Prop :=
  ∀ s t : State, PortLaws s.port → HeadLaws s → AnswerLaws s → step s = .next t → AnswerLaws t

/-- Every step keeps the eleventh law, with what the sites of a head are in each head state and the run they hold
(R44, R47, R48, R56, R59). -/
def Obligations.EveryStepKeepsThePlacesOfSites : Prop :=
  ∀ s t : State, RunLaws s → HeadLaws s → SiteLaws s → PlanLaws s → PlaceLaws s → step s = .next t → PlaceLaws t

/-- Every step keeps the twelfth law: each use count is the number of heads that use the plan, and a plan in use is
LOADED (R36, R37, R38). -/
def Obligations.EveryStepKeepsTheUseCounts : Prop :=
  ∀ s t : State, RunLaws s → HeadLaws s → PlaceLaws s → PlanLaws s → step s = .next t → PlanLaws t

/-- Every step keeps the quota of the third law and the fourth law: no site holds more entries than its quota, and the
spares left with the lines of a region make up its spares (R3, R14, R16). -/
def Obligations.EveryStepKeepsTheQuotaAndTheSpares : Prop :=
  ∀ s t : State, RunLaws s → TableLaws s → HeadLaws s → PlanLaws s → PlaceLaws s → SpareLaws s → step s = .next t →
    SpareLaws t

/-- Right after power-on reset all these laws hold (R25, R43, R62, R81, R142, R184). -/
def Obligations.TheLawsHoldAtReset : Prop :=
  TableLaws State.reset ∧ RunLaws State.reset ∧ PortLaws State.reset.port ∧ Reported State.reset ∧
    EngineLaws State.reset ∧ HeadLaws State.reset ∧ SiteLaws State.reset ∧ AnswerLaws State.reset ∧
    PlaceLaws State.reset ∧ PlanLaws State.reset ∧ SpareLaws State.reset
end

