-- ==== Sys2Proof/Laws/State.lean ====
section
/-!
SUPPORT. One lemma for each field under each update of Machine/Ops.lean, all true by unfolding.
-/

namespace Sys2Proof.Machine.State

/-! ## onPort -/

section
variable (f : ControlPort → ControlPort) (s : State)
@[simp] theorem onPort_port : (s.onPort f).port = f s.port := rfl
@[simp] theorem onPort_store : (s.onPort f).store = s.store := rfl
@[simp] theorem onPort_heads : (s.onPort f).heads = s.heads := rfl
@[simp] theorem onPort_arbiter : (s.onPort f).arbiter = s.arbiter := rfl
@[simp] theorem onPort_run : (s.onPort f).run = s.run := rfl
@[simp] theorem onPort_gates : (s.onPort f).gates = s.gates := rfl
@[simp] theorem onPort_capture : (s.onPort f).capture = s.capture := rfl
@[simp] theorem onPort_sites : (s.onPort f).sites = s.sites := rfl
@[simp] theorem onPort_alloc : (s.onPort f).alloc = s.alloc := rfl
@[simp] theorem onPort_bins : (s.onPort f).bins = s.bins := rfl
@[simp] theorem onPort_lines : (s.onPort f).lines = s.lines := rfl
@[simp] theorem onPort_wire : (s.onPort f).wire = s.wire := rfl
@[simp] theorem onPort_pending : (s.onPort f).pending = s.pending := rfl
@[simp] theorem onPort_head (h : HeadId) : (s.onPort f).head h = s.head h := rfl
@[simp] theorem onPort_bin (h : HeadId) : (s.onPort f).bin h = s.bin h := rfl
@[simp] theorem onPort_planAt (i : SlotId) : (s.onPort f).planAt i = s.planAt i := rfl
@[simp] theorem onPort_site (h : HeadId) (i : SiteId) : (s.onPort f).site h i = s.site h i := rfl
end

/-! ## onStore -/

section
variable (f : PlanStore → PlanStore) (s : State)
@[simp] theorem onStore_port : (s.onStore f).port = s.port := rfl
@[simp] theorem onStore_store : (s.onStore f).store = f s.store := rfl
@[simp] theorem onStore_heads : (s.onStore f).heads = s.heads := rfl
@[simp] theorem onStore_arbiter : (s.onStore f).arbiter = s.arbiter := rfl
@[simp] theorem onStore_run : (s.onStore f).run = s.run := rfl
@[simp] theorem onStore_gates : (s.onStore f).gates = s.gates := rfl
@[simp] theorem onStore_capture : (s.onStore f).capture = s.capture := rfl
@[simp] theorem onStore_sites : (s.onStore f).sites = s.sites := rfl
@[simp] theorem onStore_alloc : (s.onStore f).alloc = s.alloc := rfl
@[simp] theorem onStore_bins : (s.onStore f).bins = s.bins := rfl
@[simp] theorem onStore_lines : (s.onStore f).lines = s.lines := rfl
@[simp] theorem onStore_wire : (s.onStore f).wire = s.wire := rfl
@[simp] theorem onStore_pending : (s.onStore f).pending = s.pending := rfl
@[simp] theorem onStore_head (h : HeadId) : (s.onStore f).head h = s.head h := rfl
@[simp] theorem onStore_bin (h : HeadId) : (s.onStore f).bin h = s.bin h := rfl
@[simp] theorem onStore_site (h : HeadId) (i : SiteId) : (s.onStore f).site h i = s.site h i := rfl
end

/-! ## onArbiter -/

section
variable (f : Arbiter → Arbiter) (s : State)
@[simp] theorem onArbiter_port : (s.onArbiter f).port = s.port := rfl
@[simp] theorem onArbiter_store : (s.onArbiter f).store = s.store := rfl
@[simp] theorem onArbiter_heads : (s.onArbiter f).heads = s.heads := rfl
@[simp] theorem onArbiter_arbiter : (s.onArbiter f).arbiter = f s.arbiter := rfl
@[simp] theorem onArbiter_run : (s.onArbiter f).run = s.run := rfl
@[simp] theorem onArbiter_gates : (s.onArbiter f).gates = s.gates := rfl
@[simp] theorem onArbiter_capture : (s.onArbiter f).capture = s.capture := rfl
@[simp] theorem onArbiter_sites : (s.onArbiter f).sites = s.sites := rfl
@[simp] theorem onArbiter_alloc : (s.onArbiter f).alloc = s.alloc := rfl
@[simp] theorem onArbiter_bins : (s.onArbiter f).bins = s.bins := rfl
@[simp] theorem onArbiter_lines : (s.onArbiter f).lines = s.lines := rfl
@[simp] theorem onArbiter_wire : (s.onArbiter f).wire = s.wire := rfl
@[simp] theorem onArbiter_pending : (s.onArbiter f).pending = s.pending := rfl
@[simp] theorem onArbiter_head (h : HeadId) : (s.onArbiter f).head h = s.head h := rfl
@[simp] theorem onArbiter_bin (h : HeadId) : (s.onArbiter f).bin h = s.bin h := rfl
@[simp] theorem onArbiter_planAt (i : SlotId) : (s.onArbiter f).planAt i = s.planAt i := rfl
@[simp] theorem onArbiter_site (h : HeadId) (i : SiteId) : (s.onArbiter f).site h i = s.site h i := rfl
end

/-! ## onRun -/

section
variable (f : RunController → RunController) (s : State)
@[simp] theorem onRun_port : (s.onRun f).port = s.port := rfl
@[simp] theorem onRun_store : (s.onRun f).store = s.store := rfl
@[simp] theorem onRun_heads : (s.onRun f).heads = s.heads := rfl
@[simp] theorem onRun_arbiter : (s.onRun f).arbiter = s.arbiter := rfl
@[simp] theorem onRun_run : (s.onRun f).run = f s.run := rfl
@[simp] theorem onRun_gates : (s.onRun f).gates = s.gates := rfl
@[simp] theorem onRun_capture : (s.onRun f).capture = s.capture := rfl
@[simp] theorem onRun_sites : (s.onRun f).sites = s.sites := rfl
@[simp] theorem onRun_alloc : (s.onRun f).alloc = s.alloc := rfl
@[simp] theorem onRun_bins : (s.onRun f).bins = s.bins := rfl
@[simp] theorem onRun_lines : (s.onRun f).lines = s.lines := rfl
@[simp] theorem onRun_wire : (s.onRun f).wire = s.wire := rfl
@[simp] theorem onRun_pending : (s.onRun f).pending = s.pending := rfl
@[simp] theorem onRun_head (h : HeadId) : (s.onRun f).head h = s.head h := rfl
@[simp] theorem onRun_bin (h : HeadId) : (s.onRun f).bin h = s.bin h := rfl
@[simp] theorem onRun_planAt (i : SlotId) : (s.onRun f).planAt i = s.planAt i := rfl
@[simp] theorem onRun_site (h : HeadId) (i : SiteId) : (s.onRun f).site h i = s.site h i := rfl
end

/-! ## onGates -/

section
variable (f : GateUnit → GateUnit) (s : State)
@[simp] theorem onGates_port : (s.onGates f).port = s.port := rfl
@[simp] theorem onGates_store : (s.onGates f).store = s.store := rfl
@[simp] theorem onGates_heads : (s.onGates f).heads = s.heads := rfl
@[simp] theorem onGates_arbiter : (s.onGates f).arbiter = s.arbiter := rfl
@[simp] theorem onGates_run : (s.onGates f).run = s.run := rfl
@[simp] theorem onGates_gates : (s.onGates f).gates = f s.gates := rfl
@[simp] theorem onGates_capture : (s.onGates f).capture = s.capture := rfl
@[simp] theorem onGates_sites : (s.onGates f).sites = s.sites := rfl
@[simp] theorem onGates_alloc : (s.onGates f).alloc = s.alloc := rfl
@[simp] theorem onGates_bins : (s.onGates f).bins = s.bins := rfl
@[simp] theorem onGates_lines : (s.onGates f).lines = s.lines := rfl
@[simp] theorem onGates_wire : (s.onGates f).wire = s.wire := rfl
@[simp] theorem onGates_pending : (s.onGates f).pending = s.pending := rfl
@[simp] theorem onGates_head (h : HeadId) : (s.onGates f).head h = s.head h := rfl
@[simp] theorem onGates_bin (h : HeadId) : (s.onGates f).bin h = s.bin h := rfl
@[simp] theorem onGates_planAt (i : SlotId) : (s.onGates f).planAt i = s.planAt i := rfl
@[simp] theorem onGates_site (h : HeadId) (i : SiteId) : (s.onGates f).site h i = s.site h i := rfl
end

/-! ## onCapture -/

section
variable (f : CaptureUnit → CaptureUnit) (s : State)
@[simp] theorem onCapture_port : (s.onCapture f).port = s.port := rfl
@[simp] theorem onCapture_store : (s.onCapture f).store = s.store := rfl
@[simp] theorem onCapture_heads : (s.onCapture f).heads = s.heads := rfl
@[simp] theorem onCapture_arbiter : (s.onCapture f).arbiter = s.arbiter := rfl
@[simp] theorem onCapture_run : (s.onCapture f).run = s.run := rfl
@[simp] theorem onCapture_gates : (s.onCapture f).gates = s.gates := rfl
@[simp] theorem onCapture_capture : (s.onCapture f).capture = f s.capture := rfl
@[simp] theorem onCapture_sites : (s.onCapture f).sites = s.sites := rfl
@[simp] theorem onCapture_alloc : (s.onCapture f).alloc = s.alloc := rfl
@[simp] theorem onCapture_bins : (s.onCapture f).bins = s.bins := rfl
@[simp] theorem onCapture_lines : (s.onCapture f).lines = s.lines := rfl
@[simp] theorem onCapture_wire : (s.onCapture f).wire = s.wire := rfl
@[simp] theorem onCapture_pending : (s.onCapture f).pending = s.pending := rfl
@[simp] theorem onCapture_head (h : HeadId) : (s.onCapture f).head h = s.head h := rfl
@[simp] theorem onCapture_bin (h : HeadId) : (s.onCapture f).bin h = s.bin h := rfl
@[simp] theorem onCapture_planAt (i : SlotId) : (s.onCapture f).planAt i = s.planAt i := rfl
@[simp] theorem onCapture_site (h : HeadId) (i : SiteId) : (s.onCapture f).site h i = s.site h i := rfl
end

/-! ## onAlloc -/

section
variable (f : Allocator → Allocator) (s : State)
@[simp] theorem onAlloc_port : (s.onAlloc f).port = s.port := rfl
@[simp] theorem onAlloc_store : (s.onAlloc f).store = s.store := rfl
@[simp] theorem onAlloc_heads : (s.onAlloc f).heads = s.heads := rfl
@[simp] theorem onAlloc_arbiter : (s.onAlloc f).arbiter = s.arbiter := rfl
@[simp] theorem onAlloc_run : (s.onAlloc f).run = s.run := rfl
@[simp] theorem onAlloc_gates : (s.onAlloc f).gates = s.gates := rfl
@[simp] theorem onAlloc_capture : (s.onAlloc f).capture = s.capture := rfl
@[simp] theorem onAlloc_sites : (s.onAlloc f).sites = s.sites := rfl
@[simp] theorem onAlloc_alloc : (s.onAlloc f).alloc = f s.alloc := rfl
@[simp] theorem onAlloc_bins : (s.onAlloc f).bins = s.bins := rfl
@[simp] theorem onAlloc_lines : (s.onAlloc f).lines = s.lines := rfl
@[simp] theorem onAlloc_wire : (s.onAlloc f).wire = s.wire := rfl
@[simp] theorem onAlloc_pending : (s.onAlloc f).pending = s.pending := rfl
@[simp] theorem onAlloc_head (h : HeadId) : (s.onAlloc f).head h = s.head h := rfl
@[simp] theorem onAlloc_bin (h : HeadId) : (s.onAlloc f).bin h = s.bin h := rfl
@[simp] theorem onAlloc_planAt (i : SlotId) : (s.onAlloc f).planAt i = s.planAt i := rfl
@[simp] theorem onAlloc_site (h : HeadId) (i : SiteId) : (s.onAlloc f).site h i = s.site h i := rfl
end

/-! ## onWire -/

section
variable (f : Wire → Wire) (s : State)
@[simp] theorem onWire_port : (s.onWire f).port = s.port := rfl
@[simp] theorem onWire_store : (s.onWire f).store = s.store := rfl
@[simp] theorem onWire_heads : (s.onWire f).heads = s.heads := rfl
@[simp] theorem onWire_arbiter : (s.onWire f).arbiter = s.arbiter := rfl
@[simp] theorem onWire_run : (s.onWire f).run = s.run := rfl
@[simp] theorem onWire_gates : (s.onWire f).gates = s.gates := rfl
@[simp] theorem onWire_capture : (s.onWire f).capture = s.capture := rfl
@[simp] theorem onWire_sites : (s.onWire f).sites = s.sites := rfl
@[simp] theorem onWire_alloc : (s.onWire f).alloc = s.alloc := rfl
@[simp] theorem onWire_bins : (s.onWire f).bins = s.bins := rfl
@[simp] theorem onWire_lines : (s.onWire f).lines = s.lines := rfl
@[simp] theorem onWire_wire : (s.onWire f).wire = f s.wire := rfl
@[simp] theorem onWire_pending : (s.onWire f).pending = s.pending := rfl
@[simp] theorem onWire_head (h : HeadId) : (s.onWire f).head h = s.head h := rfl
@[simp] theorem onWire_bin (h : HeadId) : (s.onWire f).bin h = s.bin h := rfl
@[simp] theorem onWire_planAt (i : SlotId) : (s.onWire f).planAt i = s.planAt i := rfl
@[simp] theorem onWire_site (h : HeadId) (i : SiteId) : (s.onWire f).site h i = s.site h i := rfl
end

/-! ## onHead -/

section
variable (h : HeadId) (f : HeadContext → HeadContext) (s : State)
@[simp] theorem onHead_port : (s.onHead h f).port = s.port := rfl
@[simp] theorem onHead_store : (s.onHead h f).store = s.store := rfl
@[simp] theorem onHead_heads : (s.onHead h f).heads = upd s.heads h f := rfl
@[simp] theorem onHead_arbiter : (s.onHead h f).arbiter = s.arbiter := rfl
@[simp] theorem onHead_run : (s.onHead h f).run = s.run := rfl
@[simp] theorem onHead_gates : (s.onHead h f).gates = s.gates := rfl
@[simp] theorem onHead_capture : (s.onHead h f).capture = s.capture := rfl
@[simp] theorem onHead_sites : (s.onHead h f).sites = s.sites := rfl
@[simp] theorem onHead_alloc : (s.onHead h f).alloc = s.alloc := rfl
@[simp] theorem onHead_bins : (s.onHead h f).bins = s.bins := rfl
@[simp] theorem onHead_lines : (s.onHead h f).lines = s.lines := rfl
@[simp] theorem onHead_wire : (s.onHead h f).wire = s.wire := rfl
@[simp] theorem onHead_pending : (s.onHead h f).pending = s.pending := rfl
@[simp] theorem onHead_bin (k : HeadId) : (s.onHead h f).bin k = s.bin k := rfl
@[simp] theorem onHead_planAt (k : SlotId) : (s.onHead h f).planAt k = s.planAt k := rfl
@[simp] theorem onHead_site (k : HeadId) (j : SiteId) : (s.onHead h f).site k j = s.site k j := rfl
end

/-! ## onBin -/

section
variable (h : HeadId) (f : BinPort → BinPort) (s : State)
@[simp] theorem onBin_port : (s.onBin h f).port = s.port := rfl
@[simp] theorem onBin_store : (s.onBin h f).store = s.store := rfl
@[simp] theorem onBin_heads : (s.onBin h f).heads = s.heads := rfl
@[simp] theorem onBin_arbiter : (s.onBin h f).arbiter = s.arbiter := rfl
@[simp] theorem onBin_run : (s.onBin h f).run = s.run := rfl
@[simp] theorem onBin_gates : (s.onBin h f).gates = s.gates := rfl
@[simp] theorem onBin_capture : (s.onBin h f).capture = s.capture := rfl
@[simp] theorem onBin_sites : (s.onBin h f).sites = s.sites := rfl
@[simp] theorem onBin_alloc : (s.onBin h f).alloc = s.alloc := rfl
@[simp] theorem onBin_bins : (s.onBin h f).bins = upd s.bins h f := rfl
@[simp] theorem onBin_lines : (s.onBin h f).lines = s.lines := rfl
@[simp] theorem onBin_wire : (s.onBin h f).wire = s.wire := rfl
@[simp] theorem onBin_pending : (s.onBin h f).pending = s.pending := rfl
@[simp] theorem onBin_head (k : HeadId) : (s.onBin h f).head k = s.head k := rfl
@[simp] theorem onBin_planAt (k : SlotId) : (s.onBin h f).planAt k = s.planAt k := rfl
@[simp] theorem onBin_site (k : HeadId) (j : SiteId) : (s.onBin h f).site k j = s.site k j := rfl
end

/-! ## onLines -/

section
variable (h : HeadId) (f : HandlerLines → HandlerLines) (s : State)
@[simp] theorem onLines_port : (s.onLines h f).port = s.port := rfl
@[simp] theorem onLines_store : (s.onLines h f).store = s.store := rfl
@[simp] theorem onLines_heads : (s.onLines h f).heads = s.heads := rfl
@[simp] theorem onLines_arbiter : (s.onLines h f).arbiter = s.arbiter := rfl
@[simp] theorem onLines_run : (s.onLines h f).run = s.run := rfl
@[simp] theorem onLines_gates : (s.onLines h f).gates = s.gates := rfl
@[simp] theorem onLines_capture : (s.onLines h f).capture = s.capture := rfl
@[simp] theorem onLines_sites : (s.onLines h f).sites = s.sites := rfl
@[simp] theorem onLines_alloc : (s.onLines h f).alloc = s.alloc := rfl
@[simp] theorem onLines_bins : (s.onLines h f).bins = s.bins := rfl
@[simp] theorem onLines_lines : (s.onLines h f).lines = upd s.lines h f := rfl
@[simp] theorem onLines_wire : (s.onLines h f).wire = s.wire := rfl
@[simp] theorem onLines_pending : (s.onLines h f).pending = s.pending := rfl
@[simp] theorem onLines_head (k : HeadId) : (s.onLines h f).head k = s.head k := rfl
@[simp] theorem onLines_bin (k : HeadId) : (s.onLines h f).bin k = s.bin k := rfl
@[simp] theorem onLines_planAt (k : SlotId) : (s.onLines h f).planAt k = s.planAt k := rfl
@[simp] theorem onLines_site (k : HeadId) (j : SiteId) : (s.onLines h f).site k j = s.site k j := rfl
end

/-! ## mapSites -/

section
variable (h : HeadId) (f : SiteId → SiteContext → SiteContext) (s : State)
@[simp] theorem mapSites_port : (s.mapSites h f).port = s.port := rfl
@[simp] theorem mapSites_store : (s.mapSites h f).store = s.store := rfl
@[simp] theorem mapSites_heads : (s.mapSites h f).heads = s.heads := rfl
@[simp] theorem mapSites_arbiter : (s.mapSites h f).arbiter = s.arbiter := rfl
@[simp] theorem mapSites_run : (s.mapSites h f).run = s.run := rfl
@[simp] theorem mapSites_gates : (s.mapSites h f).gates = s.gates := rfl
@[simp] theorem mapSites_capture : (s.mapSites h f).capture = s.capture := rfl
@[simp] theorem mapSites_sites : (s.mapSites h f).sites = upd s.sites h (fun v => Vector.ofFn fun i => f i v[i]) := rfl
@[simp] theorem mapSites_alloc : (s.mapSites h f).alloc = s.alloc := rfl
@[simp] theorem mapSites_bins : (s.mapSites h f).bins = s.bins := rfl
@[simp] theorem mapSites_lines : (s.mapSites h f).lines = s.lines := rfl
@[simp] theorem mapSites_wire : (s.mapSites h f).wire = s.wire := rfl
@[simp] theorem mapSites_pending : (s.mapSites h f).pending = s.pending := rfl
@[simp] theorem mapSites_head (k : HeadId) : (s.mapSites h f).head k = s.head k := rfl
@[simp] theorem mapSites_bin (k : HeadId) : (s.mapSites h f).bin k = s.bin k := rfl
@[simp] theorem mapSites_planAt (k : SlotId) : (s.mapSites h f).planAt k = s.planAt k := rfl
end

/-! ## onSite -/

section
variable (h : HeadId) (i : SiteId) (f : SiteContext → SiteContext) (s : State)
@[simp] theorem onSite_port : (s.onSite h i f).port = s.port := rfl
@[simp] theorem onSite_store : (s.onSite h i f).store = s.store := rfl
@[simp] theorem onSite_heads : (s.onSite h i f).heads = s.heads := rfl
@[simp] theorem onSite_arbiter : (s.onSite h i f).arbiter = s.arbiter := rfl
@[simp] theorem onSite_run : (s.onSite h i f).run = s.run := rfl
@[simp] theorem onSite_gates : (s.onSite h i f).gates = s.gates := rfl
@[simp] theorem onSite_capture : (s.onSite h i f).capture = s.capture := rfl
@[simp] theorem onSite_sites : (s.onSite h i f).sites = upd s.sites h (fun v => upd v i f) := rfl
@[simp] theorem onSite_alloc : (s.onSite h i f).alloc = s.alloc := rfl
@[simp] theorem onSite_bins : (s.onSite h i f).bins = s.bins := rfl
@[simp] theorem onSite_lines : (s.onSite h i f).lines = s.lines := rfl
@[simp] theorem onSite_wire : (s.onSite h i f).wire = s.wire := rfl
@[simp] theorem onSite_pending : (s.onSite h i f).pending = s.pending := rfl
@[simp] theorem onSite_head (k : HeadId) : (s.onSite h i f).head k = s.head k := rfl
@[simp] theorem onSite_bin (k : HeadId) : (s.onSite h i f).bin k = s.bin k := rfl
@[simp] theorem onSite_planAt (k : SlotId) : (s.onSite h i f).planAt k = s.planAt k := rfl
end

/-! ## One element of a vector -/

theorem upd_get {α : Type} {n : Nat} (v : Vector α n) (i j : Fin n) (f : α → α) :
    (upd v i f)[j] = if j = i then f v[i] else v[j] := by
  unfold upd
  by_cases e : j = i
  · subst e; simp
  · have : i.val ≠ j.val := fun x => e (Fin.ext x.symm)
    simp [e, this]

@[simp] theorem onHead_head (h k : HeadId) (f : HeadContext → HeadContext) (s : State) :
    (s.onHead h f).head k = if k = h then f (s.head h) else s.head k := upd_get _ _ _ _

@[simp] theorem onBin_bin (h k : HeadId) (f : BinPort → BinPort) (s : State) :
    (s.onBin h f).bin k = if k = h then f (s.bin h) else s.bin k := upd_get _ _ _ _

@[simp] theorem mapSites_site (h k : HeadId) (j : SiteId) (f : SiteId → SiteContext → SiteContext) (s : State) :
    (s.mapSites h f).site k j = if k = h then f j (s.site h j) else s.site k j := by
  show (upd s.sites h _)[k][j] = _
  rw [upd_get]
  split
  · rename_i e; subst e; simp [State.site]
  · rfl

@[simp] theorem onSite_site (h k : HeadId) (i j : SiteId) (f : SiteContext → SiteContext) (s : State) :
    (s.onSite h i f).site k j = if k = h ∧ j = i then f (s.site h i) else s.site k j := by
  show (upd s.sites h _)[k][j] = _
  rw [upd_get]
  by_cases e : k = h
  · subst e
    simp only [if_true, true_and]
    exact upd_get _ _ _ _
  · simp [e]; rfl

end Sys2Proof.Machine.State
end

