-- ==== Sys2Proof/Laws/Frame.lean ====
section
/-!
SUPPORT. What each shared operation may change: one SameBut lemma per operation, cited by the provers instead of
unfolding it.
-/

namespace Sys2Proof.Machine.State

/-! ## SameBut -/

namespace SameBut

theorem refl (m : List Block) (s : State) : SameBut m s s := fun b _ => by cases b <;> rfl

theorem trans {m : List Block} {s t u : State} (a : SameBut m s t) (b : SameBut m t u) : SameBut m s u := by
  intro x hx
  have p := a x hx
  have q := b x hx
  cases x <;> exact Eq.trans q p

theorem mono {m n : List Block} {s t : State} (a : SameBut m s t) (h : ∀ b ∈ m, b ∈ n) : SameBut n s t :=
  fun x hx => a x fun hm => hx (h x hm)

/-- Two frames one after the other, in a common set of blocks. -/
theorem comp {k m n : List Block} {s t u : State} (a : SameBut m s t) (b : SameBut n t u) (hm : ∀ x ∈ m, x ∈ k)
    (hn : ∀ x ∈ n, x ∈ k) : SameBut k s u := (a.mono hm).trans (b.mono hn)

theorem ite {m : List Block} {s a b : State} {c : Prop} [Decidable c] (x : SameBut m s a) (y : SameBut m s b) :
    SameBut m s (if c then a else b) := by split <;> assumption

end SameBut

/-- A loop over heads changes what its body may change. -/
theorem forHeads_same {m : List Block} {f : HeadId → State → State} (h : ∀ k t, SameBut m t (f k t)) (set : HeadSet)
    (s : State) : SameBut m s (s.forHeads set f) := by
  unfold forHeads
  generalize allHeads = l
  induction l generalizing s with
  | nil => exact SameBut.refl _ _
  | cons k rest ih =>
    refine SameBut.trans ?_ (ih _)
    show SameBut m s (if set.getLsbD k.val then f k s else s)
    split
    · exact h _ _
    · exact SameBut.refl _ _

/-- Whatever a loop's body keeps, the loop keeps. -/
theorem forHeads_keeps {P : State → Prop} {f : HeadId → State → State} (h : ∀ k t, P t → P (f k t)) (set : HeadSet)
    {s : State} (hs : P s) : P (s.forHeads set f) := by
  unfold forHeads
  generalize allHeads = l
  induction l generalizing s with
  | nil => exact hs
  | cons k rest ih =>
    refine ih ?_
    show P (if set.getLsbD k.val then f k s else s)
    split
    · exact h _ _ hs
    · exact hs

/-! ## Updates -/

theorem onPort_same (f : ControlPort → ControlPort) (s : State) : SameBut [.port] s (s.onPort f) :=
  fun b hb => by cases b <;> first | rfl | exact absurd (by decide) hb

theorem onStore_same (f : PlanStore → PlanStore) (s : State) : SameBut [.store] s (s.onStore f) :=
  fun b hb => by cases b <;> first | rfl | exact absurd (by decide) hb

theorem onArbiter_same (f : Arbiter → Arbiter) (s : State) : SameBut [.arbiter] s (s.onArbiter f) :=
  fun b hb => by cases b <;> first | rfl | exact absurd (by decide) hb

theorem onRun_same (f : RunController → RunController) (s : State) : SameBut [.run] s (s.onRun f) :=
  fun b hb => by cases b <;> first | rfl | exact absurd (by decide) hb

theorem onGates_same (f : GateUnit → GateUnit) (s : State) : SameBut [.gates] s (s.onGates f) :=
  fun b hb => by cases b <;> first | rfl | exact absurd (by decide) hb

theorem onCapture_same (f : CaptureUnit → CaptureUnit) (s : State) : SameBut [.capture] s (s.onCapture f) :=
  fun b hb => by cases b <;> first | rfl | exact absurd (by decide) hb

theorem onAlloc_same (f : Allocator → Allocator) (s : State) : SameBut [.alloc] s (s.onAlloc f) :=
  fun b hb => by cases b <;> first | rfl | exact absurd (by decide) hb

theorem onWire_same (f : Wire → Wire) (s : State) : SameBut [.wire] s (s.onWire f) :=
  fun b hb => by cases b <;> first | rfl | exact absurd (by decide) hb

theorem onHead_same (h : HeadId) (f : HeadContext → HeadContext) (s : State) : SameBut [.heads] s (s.onHead h f) :=
  fun b hb => by cases b <;> first | rfl | exact absurd (by decide) hb

theorem onBin_same (h : HeadId) (f : BinPort → BinPort) (s : State) : SameBut [.bins] s (s.onBin h f) :=
  fun b hb => by cases b <;> first | rfl | exact absurd (by decide) hb

theorem onLines_same (h : HeadId) (f : HandlerLines → HandlerLines) (s : State) : SameBut [.lines] s (s.onLines h f) :=
  fun b hb => by cases b <;> first | rfl | exact absurd (by decide) hb

theorem mapSites_same (h : HeadId) (f : SiteId → SiteContext → SiteContext) (s : State) : SameBut [.sites] s (s.mapSites h f) :=
  fun b hb => by cases b <;> first | rfl | exact absurd (by decide) hb

theorem onSite_same (h : HeadId) (i : SiteId) (f : SiteContext → SiteContext) (s : State) : SameBut [.sites] s (s.onSite h i f) :=
  fun b hb => by cases b <;> first | rfl | exact absurd (by decide) hb

theorem setHeadState_same (h : HeadId) (x : HeadState) (s : State) : SameBut [.heads] s (s.setHeadState h x) :=
  fun b hb => by cases b <;> first | rfl | exact absurd (by decide) hb

theorem raiseFlag_same (h : HeadId) (x : BitVec 10) (s : State) : SameBut [.heads] s (s.raiseFlag h x) :=
  fun b hb => by cases b <;> first | rfl | exact absurd (by decide) hb

theorem setPartFlag_same (x : BitVec 4) (s : State) : SameBut [.port] s (s.setPartFlag x) :=
  fun b hb => by cases b <;> first | rfl | exact absurd (by decide) hb

theorem sendSource_same (x : SourceMessage) (s : State) : SameBut [.wire] s (s.sendSource x) :=
  fun b hb => by cases b <;> first | rfl | exact absurd (by decide) hb

theorem sendHead_same (h : HeadId) (x : HeadFrame) (s : State) : SameBut [.wire] s (s.sendHead h x) :=
  (onWire_same _ s).ite (SameBut.refl _ s)

theorem answer_same (k t : Byte) (st : Status) (fs : List Byte) (s : State) : SameBut [.port] s (s.answer k t st fs) :=
  fun b hb => by cases b <;> first | rfl | exact absurd (by decide) hb

theorem answerOk_same (q : Request) (fs : List Byte) (s : State) : SameBut [.port] s (s.answerOk q fs) :=
  fun b hb => by cases b <;> first | rfl | exact absurd (by decide) hb

theorem refuse_same (q : Request) (st : Status) (s : State) : SameBut [.port] s (s.refuse q st) :=
  fun b hb => by cases b <;> first | rfl | exact absurd (by decide) hb

theorem queueNotice_same (n : Notice) (s : State) : SameBut [.port] s (s.queueNotice n) :=
  fun b hb => by cases b <;> first | rfl | exact absurd (by decide) hb

theorem runNotice_same (n : Notice) (s : State) : SameBut [.port] s (s.runNotice n) :=
  (queueNotice_same n s).ite (SameBut.refl _ s)

theorem emit_same (s : State) : SameBut [.port] s (s.emit) :=
  fun b hb => by cases b <;> first | rfl | exact absurd (by decide) hb

theorem flushHead_same (h : HeadId) (s : State) : SameBut [.heads, .port] s (s.flushHead h) := by
  unfold flushHead
  exact SameBut.ite ((onHead_same _ _ s).mono (by decide))
    ((onHead_same _ _ s).comp (queueNotice_same _ _) (by decide) (by decide))

theorem flushEvents_same (s : State) : SameBut [.heads, .port] s (s.flushEvents) := by
  unfold flushEvents
  generalize allHeads = l
  induction l generalizing s with
  | nil => exact SameBut.refl _ _
  | cons k rest ih => exact (flushHead_same k s).trans (ih _)

theorem report_same (s : State) : SameBut [.heads, .port] s (s.report) :=
  (flushEvents_same s).comp (emit_same _) (by decide) (by decide)

/-! ## Sites and plans -/

theorem freeHeadEntries_same (h : HeadId) (s : State) : SameBut [.capture] s (s.freeHeadEntries h) :=
  fun b hb => by cases b <;> first | rfl | exact absurd (by decide) hb

theorem releaseSites_same (h : HeadId) (s : State) : SameBut [.sites, .capture] s (s.releaseSites h) :=
  fun b hb => by cases b <;> first | rfl | exact absurd (by decide) hb

theorem useSlot_same (i : SlotId) (s : State) : SameBut [.store] s (s.useSlot i) :=
  fun b hb => by cases b <;> first | rfl | exact absurd (by decide) hb

theorem dropUse_same (i : Option SlotId) (s : State) : SameBut [.store] s (s.dropUse i) := by
  cases i
  · exact SameBut.refl _ _
  · exact onStore_same _ s

/-! ## Runs -/

theorem clearRun_same (s : State) : SameBut [.run, .gates] s (s.clearRun) :=
  fun b hb => by cases b <;> first | rfl | exact absurd (by decide) hb

theorem addJob_same (j : Job) (s : State) : SameBut [.alloc] s (s.addJob j) :=
  fun b hb => by cases b <;> first | rfl | exact absurd (by decide) hb

theorem autoJobs_same (p : Option Plan) (set : HeadSet) (s : State) : SameBut [.alloc] s (s.autoJobs p set) := by
  unfold autoJobs
  split
  · exact SameBut.ite (forHeads_same (fun _ t => addJob_same _ t) _ _) (SameBut.refl _ _)
  · exact SameBut.refl _ _

theorem normalEnd_same (s : State) : SameBut [.run, .gates, .sites, .heads, .alloc, .port] s (s.normalEnd) := by
  unfold normalEnd
  have a := forHeads_same (m := [.sites, .heads])
    (f := fun h t => (t.mapSites h fun _ c => c.endNormal).setHeadState h .analysis)
    (fun h t => (mapSites_same h _ t).comp (setHeadState_same h _ _) (by decide) (by decide)) s.run.group s
  exact (((a.comp (autoJobs_same _ _ _) (k := [.sites, .heads, .alloc]) (by decide) (by decide)).comp (runNotice_same _ _)
    (k := [.sites, .heads, .alloc, .port]) (by decide) (by decide)).comp (clearRun_same _) (by decide) (by decide))

theorem abortedEnd_same (s : State) : SameBut [.run, .gates, .sites, .heads, .alloc, .port] s (s.abortedEnd) := by
  unfold abortedEnd
  have a := forHeads_same (m := [.sites, .heads])
    (f := fun h t => (t.mapSites h fun _ c => c.endAborted s.endCause s.runEntry).setHeadState h .analysis)
    (fun h t => (mapSites_same h _ t).comp (setHeadState_same h _ _) (by decide) (by decide)) s.run.group s
  exact (((a.comp (autoJobs_same _ _ _) (k := [.sites, .heads, .alloc]) (by decide) (by decide)).comp (runNotice_same _ _)
    (k := [.sites, .heads, .alloc, .port]) (by decide) (by decide)).comp (clearRun_same _) (by decide) (by decide))

theorem endWithoutStart_same (w : StartFailure) (s : State) : SameBut [.run, .gates, .wire, .heads, .store] s (s.endWithoutStart w) := by
  unfold endWithoutStart
  have a := forHeads_same (m := [.wire, .heads, .store])
    (f := fun h t => (((t.sendHead h .runStop).setHeadState h .idle).raiseFlag h HeadFlag.runDeclined).dropUse s.run.slot)
    (fun h t => (((sendHead_same h _ t).comp (setHeadState_same h _ _) (k := [.wire, .heads]) (by decide) (by decide)).comp
      (raiseFlag_same h _ _) (k := [.wire, .heads]) (by decide) (by decide)).comp (dropUse_same _ _) (by decide) (by decide)) s.run.group s
  exact (a.comp (onRun_same _ _) (k := [.wire, .heads, .store, .run]) (by decide) (by decide)).comp (clearRun_same _) (by decide) (by decide)

theorem abortRun_same (c : RunAbort) (s : State) : SameBut [.run, .wire] s (s.abortRun c) := by
  unfold abortRun
  exact SameBut.ite (SameBut.refl _ _) (((sendSource_same _ s).comp
    (forHeads_same (fun h t => sendHead_same h _ t) _ _) (k := [.wire]) (by decide) (by decide)).comp (onRun_same _ _) (by decide) (by decide))

theorem feedFault_same (f : RunFault) (s : State) : SameBut [.run, .wire, .port] s (s.feedFault f) := by
  unfold feedFault
  exact ((onRun_same _ s).comp (setPartFlag_same _ _) (k := [.run, .port]) (by decide) (by decide)).comp (abortRun_same _ _) (by decide) (by decide)

theorem forward_same (r : FeedRecord) (s : State) : SameBut [.wire] s (s.forward r) :=
  forHeads_same (fun h t => sendHead_same h _ t) _ _

theorem parkSites_same (d p : Nat) (set : SiteSet) (h : HeadId) (s : State) : SameBut [.sites, .wire] s (s.parkSites d p set h) :=
  (mapSites_same h _ s).comp (sendHead_same h _ _) (by decide) (by decide)

theorem expireSites_same (p : Expiry) (d : Nat) (set : SiteSet) (h : HeadId) (s : State) : SameBut [.sites, .wire] s (s.expireSites p d set h) := by
  unfold expireSites
  split
  · exact SameBut.ite ((mapSites_same h _ s).mono (by decide)) ((mapSites_same h _ s).comp (sendHead_same h _ _) (by decide) (by decide))
  · exact (mapSites_same h _ s).mono (by decide)

theorem unparkSites_same (d : Nat) (set : SiteSet) (h : HeadId) (s : State) : SameBut [.sites, .wire] s (s.unparkSites d set h) :=
  (mapSites_same h _ s).comp (sendHead_same h _ _) (by decide) (by decide)

theorem afterDecision_same (s : State) : SameBut [.run, .gates] s (s.afterDecision) :=
  fun b hb => by cases b <;> first | rfl | exact absurd (by decide) hb

theorem exitLevel_same (l : GateLevel) (b : List GateLevel) (s : State) : SameBut [.sites, .wire, .gates] s (s.exitLevel l b) := by
  unfold exitLevel
  exact ((forHeads_same (fun h t => unparkSites_same _ _ h t) _ _).comp (onGates_same _ _)
    (k := [.sites, .wire, .gates]) (by decide) (by decide)).comp (sendSource_same _ _) (by decide) (by decide)

theorem repeatLevel_same (l : GateLevel) (b : List GateLevel) (s : State) : SameBut [.wire, .gates] s (s.repeatLevel l b) :=
  (onGates_same _ s).comp (sendSource_same _ _) (by decide) (by decide)

theorem decideLevel_same (l : GateLevel) (b : List GateLevel) (s : State) : SameBut [.sites, .wire, .gates] s (s.decideLevel l b) := by
  unfold decideLevel
  exact SameBut.ite (exitLevel_same _ _ s) (SameBut.ite
    ((forHeads_same (fun h t => expireSites_same _ _ _ h t) _ _).comp (exitLevel_same _ _ _) (by decide) (by decide))
    ((repeatLevel_same _ _ s).mono (by decide)))

theorem makeDecision_same (s : State) : SameBut [.sites, .wire, .gates, .run] s (s.makeDecision) := by
  unfold makeDecision
  split
  · exact SameBut.refl _ _
  · exact ((forHeads_same (fun h t => parkSites_same _ _ _ h t) _ _).comp (decideLevel_same _ _ _)
      (k := [.sites, .wire, .gates]) (by decide) (by decide)).comp (afterDecision_same _) (by decide) (by decide)

theorem removeHead_same (h : HeadId) (c : AbortCause) (s : State) : SameBut [.run, .gates, .sites, .wire, .heads] s (s.removeHead h c) := by
  unfold removeHead
  exact (((((onRun_same _ s).comp (onGates_same _ _) (k := [.run, .gates]) (by decide) (by decide)).comp (mapSites_same h _ _)
    (k := [.run, .gates, .sites]) (by decide) (by decide)).comp (sendHead_same h _ _) (k := [.run, .gates, .sites, .wire]) (by decide) (by decide)).comp
    (setHeadState_same h _ _) (k := [.run, .gates, .sites, .wire, .heads]) (by decide) (by decide)).comp (raiseFlag_same h _ _) (by decide) (by decide)

theorem afterDrop_same (s : State) : SameBut [.run, .gates, .sites, .wire, .heads, .alloc, .port] s (s.afterDrop) := by
  unfold afterDrop
  refine SameBut.ite ((abortRun_same _ s).mono (by decide)) ?_
  split
  · exact SameBut.ite ((makeDecision_same s).mono (by decide)) (SameBut.refl _ s)
  · exact SameBut.ite ((normalEnd_same s).mono (by decide)) (SameBut.refl _ s)
  · exact SameBut.refl _ s

theorem dropHead_same (h : HeadId) (c : AbortCause) (s : State) : SameBut [.run, .gates, .sites, .wire, .heads, .alloc, .port] s (s.dropHead h c) := by
  unfold dropHead
  exact SameBut.ite ((removeHead_same h c s).comp (afterDrop_same _) (by decide) (by decide)) (SameBut.refl _ s)

theorem applyDefault_same (r : Raise) (s : State) : SameBut [.run, .gates, .sites, .wire, .heads, .alloc, .port] s (s.applyDefault r) := by
  unfold applyDefault
  split
  · exact (onGates_same _ s).mono (by decide)
  · exact (sendSource_same _ s).mono (by decide)
  · split
    · exact (onSite_same _ _ _ s).mono (by decide)
    · exact SameBut.refl _ s
  · split
    · exact (onSite_same _ _ _ s).mono (by decide)
    · exact SameBut.refl _ s
  · exact SameBut.refl _ s
  · exact SameBut.refl _ s
  · exact forHeads_same (fun h t => dropHead_same h _ t) _ _

theorem holdRun_same (r : Raise) (s : State) : SameBut [.run, .wire, .port] s (s.holdRun r) := by
  unfold holdRun
  exact ((SameBut.ite (m := [.wire]) (sendSource_same _ s) (SameBut.refl _ s)).comp (onRun_same _ _)
    (k := [.wire, .run]) (by decide) (by decide)).comp (runNotice_same _ _) (by decide) (by decide)

theorem setMore_same (s : State) : SameBut [.run] s (s.setMore) :=
  fun b hb => by cases b <;> first | rfl | exact absurd (by decide) hb

theorem raiseException_same (r : Raise) (s : State) : SameBut [.run, .gates, .sites, .wire, .heads, .alloc, .port] s (s.raiseException r) := by
  unfold raiseException
  have a := onRun_same (RunController.setException r.cause.bit) s
  split
  · exact SameBut.refl _ s
  · exact SameBut.refl _ s
  · exact (a.comp (setMore_same _) (k := [.run]) (by decide) (by decide)).comp (applyDefault_same _ _) (by decide) (by decide)
  · exact a.comp (applyDefault_same _ _) (by decide) (by decide)
  · exact SameBut.ite (a.comp (applyDefault_same _ _) (by decide) (by decide)) (a.comp (holdRun_same _ _) (by decide) (by decide))

theorem grantTo_same (w : QueueEntry) (p : Plan) (s : State) : SameBut [.arbiter, .run, .wire, .heads] s (s.grantTo w p) := by
  unfold grantTo
  exact (((onArbiter_same _ s).comp (onRun_same _ _) (k := [.arbiter, .run]) (by decide) (by decide)).comp (sendSource_same _ _)
    (k := [.arbiter, .run, .wire]) (by decide) (by decide)).comp
    (forHeads_same (m := [.heads, .wire])
      (fun h t => (setHeadState_same h _ t).comp (sendHead_same h _ _) (by decide) (by decide)) _ _) (by decide) (by decide)

theorem grantCheck_same (s : State) : SameBut [.arbiter, .run, .wire, .heads] s (s.grantCheck) := by
  unfold grantCheck
  refine SameBut.ite ?_ (SameBut.refl _ s)
  split
  · exact SameBut.refl _ s
  · split
    · exact grantTo_same _ _ s
    · exact SameBut.refl _ s

theorem startEngine_same (s : State) : SameBut [.alloc] s (s.startEngine) :=
  fun b hb => by cases b <;> first | rfl | exact absurd (by decide) hb

theorem settle_same (s : State) : SameBut [.heads, .port, .arbiter, .run, .wire, .alloc] s (s.settle) := by
  unfold settle
  exact (((flushEvents_same s).comp (grantCheck_same _) (k := [.heads, .port, .arbiter, .run, .wire]) (by decide) (by decide)).comp
    (startEngine_same _) (k := [.heads, .port, .arbiter, .run, .wire, .alloc]) (by decide) (by decide)).comp (emit_same _) (by decide) (by decide)

theorem serve_same (s : State) : SameBut [.alloc, .port] s (s.serve) :=
  (startEngine_same s).comp (emit_same _) (by decide) (by decide)

/-! ## Heads -/

theorem join_same (h : HeadId) (i : SlotId) (s : State) : SameBut [.arbiter, .heads, .store] s (s.join h i) := by
  unfold join
  split
  · exact SameBut.refl _ s
  · exact ((onArbiter_same _ s).comp (setHeadState_same h _ _) (k := [.arbiter, .heads]) (by decide) (by decide)).comp (useSlot_same _ _) (by decide) (by decide)

theorem joinDefault_same (h : HeadId) (s : State) : SameBut [.arbiter, .heads, .store] s (s.joinDefault h) := by
  unfold joinDefault
  split
  · exact SameBut.refl _ s
  · exact join_same h _ s

theorem unqueue_same (h : HeadId) (s : State) : SameBut [.arbiter] s (s.unqueue h) :=
  fun b hb => by cases b <;> first | rfl | exact absurd (by decide) hb

theorem withdraw_same (h : HeadId) (x : HeadState) (s : State) : SameBut [.arbiter, .heads, .store] s (s.withdraw h x) := by
  unfold withdraw
  exact ((unqueue_same h s).comp (setHeadState_same h _ _) (k := [.arbiter, .heads]) (by decide) (by decide)).comp (dropUse_same _ _) (by decide) (by decide)

theorem issueService_same (h : HeadId) (op : ServiceOp) (o : ServiceOrigin) (s : State) : SameBut [.heads, .wire] s (s.issueService h op o) :=
  (onHead_same h _ s).comp (sendHead_same h _ _) (by decide) (by decide)

theorem answerService_same (v : Service) (st : Status) (fs : List Byte) (s : State) : SameBut [.port] s (s.answerService v st fs) := by
  unfold answerService
  split
  · exact answer_same _ _ _ _ s
  · exact SameBut.refl _ s

theorem setSupply_same (h : HeadId) (x : SupplyState) (s : State) : SameBut [.heads] s (s.setSupply h x) :=
  fun b hb => by cases b <;> first | rfl | exact absurd (by decide) hb

theorem pauseFilter_same (h : HeadId) (s : State) : SameBut [.heads] s (s.pauseFilter h) :=
  fun b hb => by cases b <;> first | rfl | exact absurd (by decide) hb

theorem resumeFilter_same (h : HeadId) (s : State) : SameBut [.heads] s (s.resumeFilter h) :=
  fun b hb => by cases b <;> first | rfl | exact absurd (by decide) hb

theorem startWake_same (h : HeadId) (o : ServiceOrigin) (m : Bool) (s : State) : SameBut [.heads, .wire] s (s.startWake h o m) := by
  unfold startWake
  exact ((issueService_same h _ _ s).comp (setHeadState_same h _ _) (k := [.heads, .wire]) (by decide) (by decide)).comp (resumeFilter_same h _) (by decide) (by decide)

theorem issuePendingWake_same (h : HeadId) (s : State) : SameBut [.heads, .wire] s (s.issuePendingWake h) := by
  unfold issuePendingWake
  split
  · exact (onHead_same h _ s).comp (startWake_same h _ _ _) (by decide) (by decide)
  · exact SameBut.refl _ s

theorem edgeWake_same (h : HeadId) (s : State) : SameBut [.heads, .wire] s (s.edgeWake h) := by
  unfold edgeWake
  simp only
  split
  · exact startWake_same h _ _ s
  · exact (onHead_same h _ s).mono (by decide)

theorem startEdge_same (h : HeadId) (s : State) : SameBut [.heads, .wire, .arbiter, .store] s (s.startEdge h) := by
  unfold startEdge
  have a := raiseFlag_same h HeadFlag.startSeen s
  simp only
  split
  · exact a.mono (by decide)
  · exact SameBut.ite (a.comp (edgeWake_same h _) (by decide) (by decide)) (a.mono (by decide))
  · exact SameBut.ite (a.comp (joinDefault_same h _) (by decide) (by decide)) (a.mono (by decide))
  · exact a.comp (raiseFlag_same h _ _) (by decide) (by decide)

theorem recognise_same (h : HeadId) (l : LineLevel) (s : State) : SameBut [.heads, .wire, .arbiter, .store] s (s.recognise h l) := by
  unfold recognise
  exact SameBut.ite ((onHead_same h _ s).comp (startEdge_same h _) (by decide) (by decide)) ((onHead_same h _ s).mono (by decide))

theorem filterChange_same (h : HeadId) (l : LineLevel) (s : State) : SameBut [.heads, .wire, .arbiter, .store] s (s.filterChange h l) := by
  unfold filterChange
  exact SameBut.ite ((onHead_same h _ s).mono (by decide)) (SameBut.ite (recognise_same h l s)
    (SameBut.ite (SameBut.refl _ s) ((onHead_same h _ s).mono (by decide))))

theorem endSupplyOn_same (h : HeadId) (v : Service) (e : ServiceEnd) (s : State) : SameBut [.heads, .port] s (s.endSupplyOn h v e) := by
  unfold endSupplyOn
  split
  · exact (setSupply_same h _ s).comp (answerService_same _ _ _ _) (by decide) (by decide)
  · exact ((setSupply_same h _ s).comp (raiseFlag_same h _ _) (k := [.heads]) (by decide) (by decide)).comp
      (answerService_same _ _ _ _) (by decide) (by decide)
  · exact (setSupply_same h _ s).comp (answerService_same _ _ _ _) (by decide) (by decide)
  · exact (setSupply_same h _ s).comp (answerService_same _ _ _ _) (by decide) (by decide)

theorem endSupplyOff_same (h : HeadId) (v : Service) (e : ServiceEnd) (s : State) : SameBut [.heads, .port] s (s.endSupplyOff h v e) := by
  unfold endSupplyOff
  split
  · exact (setSupply_same h _ s).comp (answerService_same _ _ _ _) (by decide) (by decide)
  · exact (setSupply_same h _ s).comp (answerService_same _ _ _ _) (by decide) (by decide)

theorem endAccess_same (v : Service) (e : ServiceEnd) (r : Bool) (s : State) : SameBut [.port] s (s.endAccess v e r) := by
  unfold endAccess
  split <;> exact answerService_same _ _ _ _

theorem endSleepGood_same (h : HeadId) (v : Service) (s : State) : SameBut [.heads, .wire, .port] s (s.endSleepGood h v) := by
  unfold endSleepGood
  split
  · exact (issueService_same h _ _ s).comp (answerService_same _ _ _ _) (by decide) (by decide)
  · exact ((setHeadState_same h _ s).comp (pauseFilter_same h _) (k := [.heads]) (by decide) (by decide)).comp (answerService_same _ _ _ _) (by decide) (by decide)
  · exact (answerService_same _ _ _ s).mono (by decide)

theorem endSleep_same (h : HeadId) (v : Service) (e : ServiceEnd) (s : State) : SameBut [.heads, .wire, .port] s (s.endSleep h v e) := by
  unfold endSleep
  split
  · exact (answerService_same _ _ _ s).mono (by decide)
  · exact (answerService_same _ _ _ s).mono (by decide)
  · exact endSleepGood_same h v s

theorem endWakeGood_same (h : HeadId) (v : Service) (m : Bool) (s : State) : SameBut [.heads, .port, .arbiter, .store] s (s.endWakeGood h v m) := by
  unfold endWakeGood
  refine SameBut.comp (m := [.heads, .arbiter, .store]) ?_ (answerService_same _ _ _ _) (by decide) (by decide)
  refine SameBut.ite ?_ (SameBut.refl _ s)
  exact SameBut.ite ((setHeadState_same h _ s).comp (joinDefault_same h _) (by decide) (by decide)) ((setHeadState_same h _ s).mono (by decide))

theorem endWakeBad_same (h : HeadId) (v : Service) (s : State) : SameBut [.heads, .port] s (s.endWakeBad h v) := by
  unfold endWakeBad
  refine SameBut.comp (m := [.heads]) ?_ (answerService_same _ _ _ _) (by decide) (by decide)
  refine SameBut.comp (m := [.heads]) ?_ (raiseFlag_same h _ _) (by decide) (by decide)
  exact SameBut.ite ((setHeadState_same h _ s).comp (pauseFilter_same h _) (by decide) (by decide)) (SameBut.refl _ s)

theorem endWake_same (h : HeadId) (v : Service) (m : Bool) (e : ServiceEnd) (s : State) : SameBut [.heads, .port, .arbiter, .store] s (s.endWake h v m e) := by
  unfold endWake
  split
  · exact (endWakeBad_same h v s).mono (by decide)
  · exact (endWakeBad_same h v s).mono (by decide)
  · exact endWakeGood_same h v m s

theorem endService_same (h : HeadId) (v : Service) (e : ServiceEnd) (s : State) : SameBut [.heads, .wire, .port, .arbiter, .store] s (s.endService h v e) := by
  unfold endService
  refine SameBut.comp (m := [.heads, .wire, .port, .arbiter, .store]) ?_ (issuePendingWake_same h _) (by decide) (by decide)
  refine SameBut.comp (onHead_same h (fun c => { c with slot := none }) s)
    (n := [.heads, .wire, .port, .arbiter, .store]) ?_ (by decide) (by decide)
  split
  · exact (endSupplyOn_same h v e _).mono (by decide)
  · exact (endSupplyOff_same h v e _).mono (by decide)
  · exact (endAccess_same v e _ _).mono (by decide)
  · exact (endAccess_same v e _ _).mono (by decide)
  · exact (endSleep_same h v e _).mono (by decide)
  · exact (endWake_same h v _ e _).mono (by decide)

theorem clearSlot_same (h : HeadId) (s : State) : SameBut [.heads] s (s.clearSlot h) :=
  fun b hb => by cases b <;> first | rfl | exact absurd (by decide) hb

theorem answerCancelled_same (h : HeadId) (v : Option Service) (st : Status) (s : State) : SameBut [.port] s (s.answerCancelled h v st) := by
  unfold answerCancelled
  split
  · exact SameBut.refl _ s
  · exact answerService_same _ _ _ s

theorem headOffLink_same (h : HeadId) (s : State) : SameBut [.run, .gates, .sites, .wire, .heads, .alloc, .port, .arbiter, .store] s (s.headOffLink h) := by
  unfold headOffLink
  split
  · exact SameBut.refl _ s
  · exact (setHeadState_same h _ s).comp (resumeFilter_same h _) (by decide) (by decide)
  · exact (setHeadState_same h _ s).mono (by decide)
  · exact (setHeadState_same h _ s).mono (by decide)
  · exact (withdraw_same h _ s).mono (by decide)
  · exact (dropHead_same h _ s).mono (by decide)
  · exact SameBut.refl _ s
  · exact SameBut.refl _ s

theorem linkDown_same (h : HeadId) (s : State) : SameBut [.run, .gates, .sites, .wire, .heads, .alloc, .port, .arbiter, .store] s (s.linkDown h) := by
  unfold linkDown
  exact (((setSupply_same h _ s).comp (clearSlot_same h _) (k := [.heads]) (by decide) (by decide)).comp (answerCancelled_same h _ _ _)
    (k := [.heads, .port]) (by decide) (by decide)).comp (headOffLink_same h _) (by decide) (by decide)

theorem setLink_same (h : HeadId) (x : LinkState) (s : State) : SameBut [.heads] s (s.setLink h x) :=
  fun b hb => by cases b <;> first | rfl | exact absurd (by decide) hb

theorem loseLink_same (h : HeadId) (s : State) : SameBut [.run, .gates, .sites, .wire, .heads, .alloc, .port, .arbiter, .store] s (s.loseLink h) := by
  unfold loseLink
  exact ((setLink_same h _ s).comp (onHead_same h _ _) (k := [.heads]) (by decide) (by decide)).comp (linkDown_same h _) (by decide) (by decide)

theorem lockLink_same (h : HeadId) (s : State) : SameBut [.heads] s (s.lockLink h) := by
  unfold lockLink
  have a := (setLink_same h .locked s).comp (onHead_same h (fun c => { c with missRun := 0 }) _) (k := [.heads]) (by decide) (by decide)
  exact SameBut.ite (a.comp (setHeadState_same h _ _) (by decide) (by decide)) a

theorem placedMark_same (h : HeadId) (s : State) : SameBut [.heads] s (s.placedMark h) := by
  unfold placedMark
  split
  · exact SameBut.ite ((onHead_same h _ s).comp (lockLink_same h _) (by decide) (by decide)) (onHead_same h _ s)
  · exact onHead_same h _ s
  · exact SameBut.refl _ s

theorem misplacedMark_same (h : HeadId) (p : Fin 16) (s : State) : SameBut [.run, .gates, .sites, .wire, .heads, .alloc, .port, .arbiter, .store] s (s.misplacedMark h p) := by
  unfold misplacedMark
  refine SameBut.ite ((placedMark_same h s).mono (by decide)) ?_
  split
  · split <;> exact (onHead_same h _ s).mono (by decide)
  · exact SameBut.ite ((onHead_same h _ s).comp (loseLink_same h _) (by decide) (by decide)) ((onHead_same h _ s).mono (by decide))
  · exact SameBut.refl _ s

theorem lossOfSignal_same (h : HeadId) (s : State) : SameBut [.run, .gates, .sites, .wire, .heads, .alloc, .port, .arbiter, .store] s (s.lossOfSignal h) := by
  unfold lossOfSignal
  split
  · exact (onHead_same h _ s).mono (by decide)
  · exact SameBut.ite (loseLink_same h s) (SameBut.refl _ s)
  · exact SameBut.refl _ s

/-! ## Bins and analysis -/

theorem loadFrame_same (h : HeadId) (s : State) : SameBut [.bins, .heads] s (s.loadFrame h) := by
  unfold loadFrame
  split
  · exact SameBut.refl _ s
  · split
    · exact SameBut.refl _ s
    · exact (onBin_same h _ s).comp (setHeadState_same h _ _) (by decide) (by decide)

theorem leaveBinWait_same (h : HeadId) (x : BitVec 10) (s : State) : SameBut [.bins, .heads, .sites, .capture, .store] s (s.leaveBinWait h x) := by
  unfold leaveBinWait
  exact ((((onBin_same h _ s).comp (raiseFlag_same h _ _) (k := [.bins, .heads]) (by decide) (by decide)).comp (releaseSites_same h _)
    (k := [.bins, .heads, .sites, .capture]) (by decide) (by decide)).comp (dropUse_same _ _)
    (k := [.bins, .heads, .sites, .capture, .store]) (by decide) (by decide)).comp (setHeadState_same h _ _) (by decide) (by decide)

theorem deliver_same (h : HeadId) (s : State) : SameBut [.bins, .heads, .sites, .capture, .store] s (s.deliver h) :=
  leaveBinWait_same h _ s

theorem trailingEdge_same (h : HeadId) (f : List Byte) (s : State) : SameBut [.bins, .heads, .sites, .capture, .store] s (s.trailingEdge h f) := by
  unfold trailingEdge
  exact SameBut.ite ((onBin_same h _ s).comp (deliver_same h _) (by decide) (by decide)) ((onBin_same h _ s).mono (by decide))

theorem bclkTo_same (h : HeadId) (l : LineLevel) (s : State) : SameBut [.bins, .heads, .sites, .capture, .store, .lines] s (s.bclkTo h l) := by
  unfold bclkTo
  refine SameBut.ite (SameBut.refl _ s) ?_
  have a := onLines_same h (fun x => { x with bclk := l }) s
  simp only
  split
  · exact a.mono (by decide)
  · exact SameBut.ite (a.comp (onBin_same h _ _) (by decide) (by decide))
      (SameBut.ite (a.comp (trailingEdge_same h _ _) (by decide) (by decide)) (a.mono (by decide)))

theorem resolveSite_same (h : HeadId) (i : SiteId) (u : Nat) (o : SiteOutcome) (l : Option (List RepairLine)) (s : State) : SameBut [.sites, .alloc] s (s.resolveSite h i u o l) :=
  fun b hb => by cases b <;> first | rfl | exact absurd (by decide) hb

theorem keepWork_same (i : SiteId) (u : Nat) (w : Work) (s : State) : SameBut [.alloc] s (s.keepWork i u w) :=
  fun b hb => by cases b <;> first | rfl | exact absurd (by decide) hb

theorem reportJob_same (j : Job) (a b c : Nat) (s : State) : SameBut [.port] s (s.reportJob j a b c) := by
  unfold reportJob
  split
  · exact answer_same _ _ _ _ s
  · exact SameBut.ite (queueNotice_same _ s) (SameBut.refl _ s)

theorem endJob_same (j : Job) (e : Engine) (s : State) : SameBut [.alloc, .bins, .heads, .port] s (s.endJob j e) := by
  unfold endJob
  refine SameBut.comp (m := [.alloc, .bins, .heads]) ?_ (reportJob_same _ _ _ _ _) (by decide) (by decide)
  exact SameBut.ite ((onAlloc_same _ s).comp (loadFrame_same _ _) (by decide) (by decide)) ((onAlloc_same _ s).mono (by decide))

theorem spendAll_same (s : State) : SameBut [.alloc] s s.spendAll :=
  fun b hb => by cases b <;> first | rfl | exact absurd (by decide) hb

theorem exhausted_same (j : Job) (e : Engine) (i : SiteId) (w : Work) (s : State) : SameBut [.alloc, .sites, .bins, .heads, .port] s (s.exhausted j e i w) := by
  unfold exhausted
  exact SameBut.ite ((resolveSite_same _ _ _ _ _ s).comp (spendAll_same _) (by decide) (by decide))
    ((onSite_same _ _ _ s).comp (endJob_same _ _ _) (by decide) (by decide))

theorem allocate_same (j : Job) (e : Engine) (i : SiteId) (w : Work) (s : State) : SameBut [.alloc, .sites, .bins, .heads, .port] s (s.allocate j e i w) := by
  unfold allocate
  simp only
  split
  · exact SameBut.ite ((keepWork_same _ _ _ s).mono (by decide)) (exhausted_same _ _ _ _ s)
  · exact SameBut.ite ((resolveSite_same _ _ _ _ _ s).mono (by decide)) (exhausted_same _ _ _ _ s)
  · exact (resolveSite_same _ _ _ _ _ s).mono (by decide)

theorem takeSite_same (j : Job) (e : Engine) (i : SiteId) (s : State) : SameBut [.alloc, .sites, .bins, .heads, .port] s (s.takeSite j e i) := by
  unfold takeSite
  simp only
  split
  · exact (resolveSite_same _ _ _ _ _ s).mono (by decide)
  · split
    · exact allocate_same _ _ _ _ s
    · split
      · exact allocate_same _ _ _ _ s
      · exact (resolveSite_same _ _ _ _ _ s).mono (by decide)

theorem engineMove_same (s : State) : SameBut [.alloc, .sites, .bins, .heads, .port] s (s.engineMove) := by
  unfold engineMove
  split
  · unfold moveJob
    split
    · exact (endJob_same _ _ s).mono (by decide)
    · split
      · exact allocate_same _ _ _ _ s
      · exact takeSite_same _ _ _ s
  · exact SameBut.refl _ s

/-! ## The Capture Unit -/

theorem handRaise_same (w : FailWord) (c : FailCause) (r : Option Nat) (s : State) : SameBut [.capture] s (s.handRaise w c r) :=
  onCapture_same _ s

theorem watchCheck_same (w : FailWord) (s : State) : SameBut [.port, .capture] s (watchCheck w s) := by
  unfold watchCheck
  refine SameBut.ite (SameBut.refl _ s) ?_
  have a := SameBut.ite (m := [.capture, .port]) (c := s.port.config.watchNotices = true)
    ((onCapture_same (CaptureUnit.markHits w) s).comp
        (queueNotice_same (.watchHit w.head w.site w.bank w.row w.column (matchingWatches w s)) _) (by decide) (by decide))
    ((onCapture_same (CaptureUnit.markHits w) s).mono (by decide))
  exact SameBut.ite (a.comp (handRaise_same _ _ _ _) (by decide) (by decide)) (a.mono (by decide))

theorem addHit_same (n : Nat) (x : Nat × Entry) (s : State) : SameBut [.capture] s (s.addHit n x) :=
  fun b hb => by cases b <;> first | rfl | exact absurd (by decide) hb

theorem newEntry_same (w : FailWord) (r : Nat) (k : EntryKey) (p : SiteContext → SiteContext) (s : State) : SameBut [.sites, .capture] s (s.newEntry w r k p) := by
  unfold newEntry
  simp only
  refine SameBut.ite ((handRaise_same _ _ _ s).mono (by decide)) ?_
  split
  · exact (handRaise_same _ _ _ s).mono (by decide)
  · exact (onCapture_same _ s).comp (onSite_same _ _ _ _) (by decide) (by decide)

theorem promote_same (w : FailWord) (r : Nat) (k : EntryKey) (c : EntryKey → Bool) (f : Spares → Spares) (s : State) : SameBut [.sites, .capture] s (s.promote w r k c f) := by
  unfold promote
  simp only
  split
  · exact newEntry_same _ _ _ _ s
  · exact (onCapture_same _ s).comp (onSite_same _ _ _ _) (by decide) (by decide)

theorem markNoRepair_same (w : FailWord) (s : State) : SameBut [.sites, .capture] s (s.markNoRepair w) :=
  fun b hb => by cases b <;> first | rfl | exact absurd (by decide) hb

theorem analysePath_same (w : FailWord) (r : Nat) (s : State) : SameBut [.sites, .capture] s (s.analysePath w r) := by
  have col : SameBut [.sites, .capture] s (s.columnStep w r) := by
    unfold columnStep
    exact SameBut.ite (newEntry_same _ _ _ _ s) (SameBut.ite (markNoRepair_same w s) (promote_same _ _ _ _ _ s))
  have row : SameBut [.sites, .capture] s (s.rowStep w r) := by
    unfold rowStep
    exact SameBut.ite col (SameBut.ite (markNoRepair_same w s) (promote_same _ _ _ _ _ s))
  unfold analysePath
  simp only
  split
  · exact (addHit_same _ _ s).mono (by decide)
  · split
    · exact (addHit_same _ _ s).mono (by decide)
    · split
      · exact (addHit_same _ _ s).mono (by decide)
      · exact row

theorem failTaken_same (w : FailWord) (s : State) : SameBut [.sites, .port, .capture] s (s.failTaken w) := by
  unfold failTaken
  refine SameBut.trans (t := watchCheck w (s.onSite w.head w.site fun c => { c with failCount := satInc 65535 c.failCount }))
    (SameBut.comp (onSite_same _ _ _ s) (watchCheck_same w _) (by decide) (by decide)) ?_
  · unfold failLookup
    split
    · exact SameBut.comp (onSite_same _ _ _ _) (handRaise_same _ _ _ _) (by decide) (by decide)
    · unfold failInRegion
      split
      · exact SameBut.refl _ _
      · exact (onSite_same _ _ _ _).mono (by decide)
      · exact SameBut.ite (SameBut.refl _ _) ((analysePath_same _ _ _).mono (by decide))

/-! ## The raises of fail words -/

/-- The default of a raise of a fail word changes sites alone (R128). -/
theorem handedDefault_same (r : HandedRaise) (s : State) : SameBut [.sites] s (s.applyDefault r.raise) := by
  rcases r with ⟨_, c, _, _, _, _, _, _⟩
  cases c
  · exact SameBut.refl _ s
  · exact SameBut.refl _ s
  · exact onSite_same _ _ _ s
  · exact onSite_same _ _ _ s

theorem takeRaise_same (r : HandedRaise) (s : State) : SameBut [.run, .sites, .wire, .port] s (s.takeRaise r) := by
  unfold takeRaise
  refine SameBut.ite (SameBut.refl _ s) ?_
  unfold raiseException
  have a := onRun_same (RunController.setException r.raise.cause.bit) s
  split
  · exact SameBut.refl _ s
  · exact SameBut.refl _ s
  · exact (a.comp (setMore_same _) (k := [.run]) (by decide) (by decide)).comp (handedDefault_same _ _) (by decide) (by decide)
  · exact a.comp (handedDefault_same _ _) (by decide) (by decide)
  · exact SameBut.ite (a.comp (handedDefault_same _ _) (by decide) (by decide)) (a.comp (holdRun_same _ _) (by decide) (by decide))

theorem takeEach_same (l : List HandedRaise) (s : State) :
    SameBut [.run, .sites, .wire, .port] s (s.takeEach l) := by
  induction l generalizing s with
  | nil => exact SameBut.refl _ s
  | cons r rest ih => exact (takeRaise_same r s).trans (ih _)

theorem takeRaises_same (s : State) : SameBut [.run, .sites, .wire, .port, .capture] s s.takeRaises :=
  (onCapture_same _ s).comp (takeEach_same _ _) (by decide) (by decide)

/-- The Run Controller's taking of raises leaves the table and the Watch List, and no raise waits after it. -/
theorem takeRaises_capture (s : State) : s.takeRaises.capture = { s.capture with raises := [] } :=
  takeEach_same _ _ .capture (by decide)

/-- With no raise waiting nothing is taken. -/
theorem takeRaises_nil {s : State} (h : s.capture.raises = []) : s.takeRaises = s := by
  obtain ⟨port, store, heads, arbiter, run, gates, ⟨table, watches, raises⟩, sites, alloc, bins, lines, wire, pending⟩ := s
  simp only at h
  subst h
  rfl

/-- A hold neither reads nor changes the Capture Unit. -/
theorem holdRun_onCapture (r : Raise) (f : CaptureUnit → CaptureUnit) (s : State) :
    (s.onCapture f).holdRun r = (s.holdRun r).onCapture f := by
  have run : (s.onCapture f).run = s.run := rfl
  unfold holdRun
  simp only [run]
  generalize (s.run.state == .streaming && !s.run.paused) = pauses
  unfold runNotice
  cases n : s.port.config.runNotices <;> cases pauses <;>
    simp [State.onCapture, State.onRun, State.sendSource, State.onWire, State.queueNotice, State.onPort, n]

/-- The raise of a fail word neither reads nor changes the Capture Unit. -/
theorem takeRaise_onCapture (r : HandedRaise) (f : CaptureUnit → CaptureUnit) (s : State) :
    (s.onCapture f).takeRaise r = (s.takeRaise r).onCapture f := by
  obtain ⟨n, c, h, i, k, x, y, behind⟩ := r
  have run : (s.onCapture f).run = s.run := rfl
  unfold takeRaise
  rw [run]
  split
  · rfl
  · unfold raiseException
    rw [run]
    cases s.run.state <;> cases c <;>
      first | rfl | (simp only []; split <;> first | rfl | exact holdRun_onCapture _ f (s.onRun _))

/-- The Run Controller takes the raises that wait one after the other, the oldest first. -/
theorem takeRaises_cons {r : HandedRaise} {rest : List HandedRaise} {s : State} (h : s.capture.raises = r :: rest) :
    s.takeRaises = ((s.onCapture fun c => { c with raises := rest }).takeRaise r).takeRaises := by
  rw [takeRaise_onCapture]
  unfold takeRaises takeEach
  rw [h, List.foldl_cons, takeRaise_onCapture]
  rfl

theorem takeOldestRaises_same (s : State) :
    SameBut [.run, .sites, .wire, .port, .capture] s s.takeOldestRaises := by
  unfold takeOldestRaises
  split
  · exact SameBut.refl _ s
  · exact ((onCapture_same _ s).comp (takeEach_same _ _) (k := [.run, .sites, .wire, .port, .capture]) (by decide)
      (by decide)).comp (emit_same _) (by decide) (by decide)

/-- What the oldest word raised is taken together, and what other words raised stays (R19, R133). -/
theorem takeOldestRaises_word {r : HandedRaise} {same rest : List HandedRaise} {s : State}
    (h : s.capture.raises = r :: (same ++ rest)) (word : ∀ x ∈ same, x.follows = true)
    (other : ∀ x, rest.head? = some x → x.follows = false) :
    s.takeOldestRaises = ((s.onCapture fun c => { c with raises := rest }).takeEach (r :: same)).emit := by
  have ends : rest.takeWhile HandedRaise.follows = [] ∧ rest.dropWhile HandedRaise.follows = rest := by
    cases rest with
    | nil => exact ⟨rfl, rfl⟩
    | cons x xs => simp [other x rfl]
  unfold takeOldestRaises
  rw [h]
  simp only [List.takeWhile_append_of_pos word, List.dropWhile_append_of_pos word, ends.1, ends.2, List.append_nil]

theorem failFrame_same (h : HeadId) (i k : Byte) (r c : Half) (w : Bool) (s : State) : SameBut [.run, .sites, .wire, .port, .capture] s (s.failFrame h i k r c w) := by
  unfold failFrame
  split
  · refine SameBut.comp (m := [.run, .sites, .wire, .port, .capture]) ?_ (emit_same _) (by decide) (by decide)
    exact SameBut.ite ((failTaken_same _ s).mono (by decide))
      ((failTaken_same _ s).comp (takeRaises_same _) (by decide) (by decide))
  · exact SameBut.refl _ s

/-! ## The Feed Link and the tallies -/

theorem startTally_same (x : RunState) (s : State) : SameBut [.run] s (s.startTally x) :=
  fun b hb => by cases b <;> first | rfl | exact absurd (by decide) hb

theorem takeRecord_same (r : FeedRecord) (s : State) : SameBut [.run, .gates, .sites, .wire, .heads, .alloc, .port] s (s.takeRecord r) := by
  have a := (onRun_same (fun c => { c with recordCount := c.recordCount + 1 }) s).comp (forward_same r _)
    (k := [.run, .wire]) (by decide) (by decide)
  unfold takeRecord
  simp only
  split
  · exact a.mono (by decide)
  · refine a.comp (n := [.run, .gates, .sites, .wire, .heads, .alloc, .port]) ?_ (by decide) (by decide)
    unfold openGate
    exact SameBut.ite ((onGates_same _ _).mono (by decide)) (raiseException_same _ _)
  · refine a.comp (n := [.run, .gates, .sites, .wire, .heads, .alloc, .port]) ?_ (by decide) (by decide)
    unfold closeGate
    refine SameBut.ite ?_ ?_
    · unfold closePhantom
      exact ((forHeads_same (fun h t => sendHead_same h _ t) _ _).comp (onGates_same _ _) (k := [.wire, .gates]) (by decide) (by decide)).comp
        (sendSource_same _ _) (by decide) (by decide)
    · split
      · exact raiseException_same _ _
      · exact (onGates_same _ _).comp (startTally_same _ _) (by decide) (by decide)
  · exact (a.comp (onRun_same _ _) (k := [.run, .wire]) (by decide) (by decide)).comp (startTally_same _ _) (by decide) (by decide)

theorem arriveRecord_same (r : FeedRecord) (s : State) : SameBut [.run, .gates, .sites, .wire, .heads, .alloc, .port] s (s.arriveRecord r) := by
  unfold arriveRecord
  split
  · exact (setPartFlag_same _ s).mono (by decide)
  · exact (feedFault_same _ s).mono (by decide)
  · exact takeRecord_same r s
  · exact (feedFault_same _ s).mono (by decide)
  · exact (feedFault_same _ s).mono (by decide)
  · unfold holdRecord
    exact SameBut.ite ((onRun_same _ s).mono (by decide)) ((feedFault_same _ s).mono (by decide))
  · exact SameBut.refl _ s

theorem illFormed_same (s : State) : SameBut [.run, .wire, .port] s (s.illFormed) := by
  unfold illFormed
  split
  · exact (setPartFlag_same _ s).mono (by decide)
  · exact SameBut.refl _ s
  · exact feedFault_same _ s

theorem startRun_same (s : State) : SameBut [.run, .sites, .port] s (s.startRun) := by
  unfold startRun
  have a := (forHeads_same (m := [.sites]) (f := fun h u => u.mapSites h fun _ c =>
      match s.runEntry with
      | some e => c.startRun e
      | none => c) (fun h t => mapSites_same h _ t) s.run.group s).comp
    (onRun_same (fun r => { r with timer := none, state := .streaming }) _) (k := [.sites, .run]) (by decide) (by decide)
  simp only
  split
  · exact a.comp (runNotice_same _ _) (by decide) (by decide)
  · exact a.mono (by decide)

theorem endFeedReset_same (t : Byte) (b : Bool) (st : Status) (s : State) : SameBut [.run, .port] s (s.endFeedReset t b st) :=
  fun b hb => by cases b <;> first | rfl | exact absurd (by decide) hb

theorem sourceMessage_same (m : Option SourceInput) (s : State) : SameBut [.run, .gates, .sites, .wire, .heads, .alloc, .port, .store] s (s.sourceMessage m) := by
  unfold sourceMessage
  split
  · split
    · exact (endFeedReset_same _ _ _ s).mono (by decide)
    · exact SameBut.refl _ s
  · split
    · exact (illFormed_same s).mono (by decide)
    · exact SameBut.ite ((startRun_same s).mono (by decide)) (SameBut.refl _ s)
    · exact SameBut.ite ((endWithoutStart_same _ s).mono (by decide)) (SameBut.refl _ s)
    · exact (arriveRecord_same _ s).mono (by decide)
    · exact SameBut.ite ((abortedEnd_same s).mono (by decide)) (SameBut.refl _ s)
    · exact SameBut.refl _ s

theorem suspect_same (s : State) : SameBut [.run] s (s.suspect) :=
  fun b hb => by cases b <;> first | rfl | exact absurd (by decide) hb

theorem passTallyFrame_same (h : HeadId) (d p : Half) (m : SiteSet) (s : State) : SameBut [.sites, .wire, .gates, .run, .port] s (s.passTallyFrame h d p m) := by
  unfold passTallyFrame
  refine SameBut.ite ?_ (SameBut.refl _ s)
  refine SameBut.comp (m := [.sites, .wire, .gates, .run]) ?_ (emit_same _) (by decide) (by decide)
  exact SameBut.ite ((onGates_same _ s).comp (makeDecision_same _) (by decide) (by decide)) ((onGates_same _ s).mono (by decide))

theorem endTallyFrame_same (h : HeadId) (s : State) : SameBut [.run, .gates, .sites, .wire, .heads, .alloc, .port, .arbiter] s (s.endTallyFrame h) := by
  unfold endTallyFrame
  refine SameBut.ite ?_ (SameBut.refl _ s)
  refine SameBut.comp (m := [.run, .gates, .sites, .heads, .alloc, .port]) ?_ (settle_same _) (by decide) (by decide)
  exact SameBut.ite ((onRun_same _ s).comp (normalEnd_same _) (by decide) (by decide)) ((onRun_same _ s).mono (by decide))

/-! ## RESUME -/

theorem replay_same (l : List FeedRecord) (s : State) : SameBut [.run, .gates, .sites, .wire, .heads, .alloc, .port] s (replay l s) := by
  induction l generalizing s with
  | nil => exact SameBut.refl _ s
  | cons r rest ih =>
    unfold replay
    exact SameBut.ite ((((onRun_same _ s).comp (arriveRecord_same r _)
      (k := [.run, .gates, .sites, .wire, .heads, .alloc, .port]) (by decide) (by decide))).trans (ih _)) (SameBut.refl _ s)

theorem continueSource_same (s : State) : SameBut [.wire, .run] s s.continueSource := by
  unfold continueSource
  exact SameBut.ite ((sendSource_same _ _).comp (onRun_same _ _) (by decide) (by decide)) (SameBut.refl _ _)

theorem replayBuffer_same (s : State) : SameBut [.run, .gates, .sites, .wire, .heads, .alloc, .port] s s.replayBuffer :=
  (replay_same s.run.buffer s).comp (continueSource_same _) (by decide) (by decide)

theorem resumeRun_same (x : HoldRecord) (r : RunState) (s : State) : SameBut [.run, .gates, .sites, .wire, .heads, .alloc, .port] s (s.resumeRun x r) := by
  unfold resumeRun
  refine SameBut.trans (t := ((s.endHold r).applyDefault x.raised).completeWait) ?_ ?_
  · refine SameBut.trans (t := (s.endHold r).applyDefault x.raised)
      ((onRun_same _ s).comp (applyDefault_same _ _) (by decide) (by decide)) ?_
    unfold completeWait
    split
    · exact SameBut.ite ((makeDecision_same _).mono (by decide)) ((startTally_same _ _).mono (by decide))
    · exact SameBut.ite ((normalEnd_same _).mono (by decide)) ((startTally_same _ _).mono (by decide))
    · exact SameBut.refl _ _
  · exact replayBuffer_same _

end Sys2Proof.Machine.State
end

