-- ==== Sys2Proof/Laws/Operands.lean ====
section
/-!
SUPPORT. What the field readers of Machine/Operands.lean answer: on the byte that stands for a value, that value; on a
byte out of range, nothing (R185).
-/

namespace Sys2Proof.Machine

theorem finOf_lt {n k : Nat} (h : k < n) : finOf n k = some ⟨k, h⟩ := by simp [finOf, h]

theorem finOf_ge {n k : Nat} (h : n ≤ k) : finOf n k = none := by simp [finOf, Nat.not_lt.mpr h]

theorem byteOf_toNat {k : Nat} (h : k < 256) : (byteOf k).toNat = k := by
  simp [byteOf, BitVec.toNat_ofNat, Nat.mod_eq_of_lt h]

@[simp] theorem headOf_byteOf (h : HeadId) : headOf (byteOf h.val) = some h := by
  simp [headOf, byteOf_toNat (show h.val < 256 by omega), finOf]

@[simp] theorem siteOf_byteOf (i : SiteId) : siteOf (byteOf i.val) = some i := by
  simp [siteOf, byteOf_toNat (show i.val < 256 by omega), finOf]

@[simp] theorem slotOf_byteOf (i : SlotId) : slotOf (byteOf i.val) = some i := by
  simp [slotOf, byteOf_toNat (show i.val < 256 by omega), finOf]

@[simp] theorem indexOf_byteOf (k : Fin 4) : indexOf (byteOf k.val) = some k := by
  simp [indexOf, byteOf_toNat (show k.val < 256 by omega), finOf]

theorem headOf_above {b : Byte} (h : 3 < b.toNat) : headOf b = none := finOf_ge h
theorem siteOf_above {b : Byte} (h : 31 < b.toNat) : siteOf b = none := finOf_ge h
theorem slotOf_above {b : Byte} (h : 7 < b.toNat) : slotOf b = none := finOf_ge h
theorem indexOf_above {b : Byte} (h : 3 < b.toNat) : indexOf b = none := finOf_ge h

theorem byteOf_of_toNat {b : Byte} {k : Nat} (h : b.toNat = k) : b = byteOf k := by
  subst h; simp [byteOf]

/-- A byte in range is the byte of the value it is read as. -/
theorem headOf_some {b : Byte} {h : HeadId} (e : headOf b = some h) : b = byteOf h.val := by
  unfold headOf finOf at e
  split at e
  · injection e with e; subst e; exact byteOf_of_toNat rfl
  · exact absurd e (by simp)

@[simp] theorem onOff_boolByte (b : Bool) : onOff (boolByte b) = some b := by cases b <;> rfl

theorem onOff_above {b : Byte} (h : 1 < b.toNat) : onOff b = none := by
  have h0 : b ≠ 0#8 := by intro e; subst e; simp at h
  have h1 : b ≠ 1#8 := by intro e; subst e; simp at h
  simp [onOff, h0, h1]

theorem onOff_of_le {b : Byte} (h : b.toNat ≤ 1) : onOff b = some (b == 1) := by
  have : b = 0#8 ∨ b = 1#8 := by
    rcases Nat.le_one_iff_eq_zero_or_eq_one.mp h with e | e
    · exact Or.inl (BitVec.eq_of_toNat_eq e)
    · exact Or.inr (BitVec.eq_of_toNat_eq e)
  rcases this with e | e <;> subst e <;> rfl

@[simp] theorem alignModeOf_code (m : AlignMode) : alignModeOf m.code = some m := by cases m <;> rfl
@[simp] theorem polarityOf_code (p : Polarity) : polarityOf p.code = some p := by cases p <;> rfl
@[simp] theorem widthOf_code (w : RejectWidth) : widthOf w.code = some w := by cases w <;> rfl

theorem polarityOf_above {b : Byte} (h : 1 < b.toNat) : polarityOf b = none := by
  have h0 : b ≠ 0#8 := by intro e; subst e; simp at h
  have h1 : b ≠ 1#8 := by intro e; subst e; simp at h
  simp [polarityOf, h0, h1]

theorem widthOf_above {b : Byte} (h : 3 < b.toNat) : widthOf b = none := by
  have h0 : b ≠ 0#8 := by intro e; subst e; simp at h
  have h1 : b ≠ 1#8 := by intro e; subst e; simp at h
  have h2 : b ≠ 2#8 := by intro e; subst e; simp at h
  have h3 : b ≠ 3#8 := by intro e; subst e; simp at h
  simp [widthOf, h0, h1, h2, h3]

@[simp] theorem defaultSlotOf_byteOf (i : SlotId) : defaultSlotOf (byteOf i.val) = some (some i) := by
  have : byteOf i.val ≠ 0xFF#8 := by
    intro e
    have := congrArg BitVec.toNat e
    rw [byteOf_toNat (by omega)] at this
    simp at this
    omega
  simp [defaultSlotOf, this]

@[simp] theorem defaultSlotOf_none : defaultSlotOf 0xFF#8 = some none := rfl

theorem defaultSlotOf_above {b : Byte} (h : 7 < b.toNat) (n : b ≠ 0xFF#8) : defaultSlotOf b = none := by
  simp [defaultSlotOf, n, slotOf_above h]

end Sys2Proof.Machine
end

