-- ==== Sys2Proof/Laws/Bodies.lean ====
section
/-!
SUPPORT. Bodies of PLAN_LOAD and WATCH_SET: the readers answer exactly on bodies in range, and a plan is written back
as the body it was read from (R39, R21, R185, 11.3).
-/

namespace Sys2Proof.Machine

theorem finOf_isSome {n k : Nat} : (finOf n k).isSome = true ↔ k < n := by
  unfold finOf; split <;> simp_all

theorem byte_high_zero (b : Byte) : b.extractLsb' 4 4 = 0#4 ↔ b.toNat ≤ 15 := by revert b; decide +kernel
theorem byte_msb_clear (b : Byte) : b.msb = false ↔ b.toNat ≤ 127 := by revert b; decide +kernel
theorem byte_le_one (b : Byte) : (b = 0#8 ∨ b = 1#8) ↔ b.toNat ≤ 1 := by revert b; decide +kernel
theorem byte_le_two (b : Byte) : (b = 0#8 ∨ b = 1#8 ∨ b = 2#8) ↔ b.toNat ≤ 2 := by revert b; decide +kernel

theorem headSetOf_isSome {b : Byte} : (headSetOf b).isSome = true ↔ b.toNat ≤ 15 := by
  rw [← byte_high_zero]; unfold headSetOf; split <;> simp_all

theorem codeOf_isSome {b : Byte} : (codeOf b).isSome = true ↔ b.toNat ≤ 15 := by
  rw [← byte_high_zero]; unfold codeOf; split <;> simp_all

theorem maskSetOf_isSome {b : Byte} : (maskSetOf b).isSome = true ↔ b.toNat ≤ 127 := by
  rw [← byte_msb_clear]; unfold maskSetOf; split <;> simp_all

theorem onOff_isSome {b : Byte} : (onOff b).isSome = true ↔ b.toNat ≤ 1 := by
  rw [← byte_le_one]; unfold onOff; split <;> [skip; split] <;> simp_all

theorem expiryOf_isSome {b : Byte} : (expiryOf b).isSome = true ↔ b.toNat ≤ 1 := by
  rw [← byte_le_one]; unfold expiryOf; split <;> [skip; split] <;> simp_all

theorem policyOf_isSome {b : Byte} : (policyOf b).isSome = true ↔ b.toNat ≤ 2 := by
  rw [← byte_le_two]; unfold policyOf; split <;> [skip; split <;> [skip; split]] <;> simp_all

theorem outcomeMapOf_isSome {v : Vector Byte 8} :
    (outcomeMapOf v).isSome = true ↔ ∀ i : Fin 8, v[i].toNat ≤ 15 := by
  unfold outcomeMapOf; simp only [codeOf_isSome]; split <;> simp_all

/-! ## PLAN_LOAD -/

theorem regionOf_isSome {r : RegionBody} : (regionOf r).isSome = true ↔
    r.bank.toNat ≤ 15 ∧ r.rowBase.toNat ≤ r.rowLimit.toNat ∧
      (r.columnBase.toNat ≤ r.columnLimit.toNat ∧ r.columnLimit.toNat ≤ 4095) ∧
      (r.spareRows.toNat ≤ 15 ∧ r.spareColumns.toNat ≤ 15) ∧ r.policy.toNat ≤ 2 := by
  unfold regionOf; rw [← policyOf_isSome]
  cases h : policyOf r.policy <;> simp
  tauto

theorem regionsOf_isSome {l : List RegionBody} : (regionsOf l).isSome = true ↔
    ∀ r ∈ l, r.bank.toNat ≤ 15 ∧ r.rowBase.toNat ≤ r.rowLimit.toNat ∧
      (r.columnBase.toNat ≤ r.columnLimit.toNat ∧ r.columnLimit.toNat ≤ 4095) ∧
      (r.spareRows.toNat ≤ 15 ∧ r.spareColumns.toNat ≤ 15) ∧ r.policy.toNat ≤ 2 := by
  induction l with
  | nil => simp [regionsOf]
  | cons a l ih =>
    rw [List.forall_mem_cons, ← ih, ← regionOf_isSome, regionsOf]
    cases regionOf a <;> cases regionsOf l <;> simp

theorem regionsOf_length {l : List RegionBody} {rs : List Region} (h : regionsOf l = some rs) :
    rs.length = l.length := by
  induction l generalizing rs with
  | nil => simp [regionsOf] at h; subst h; rfl
  | cons a l ih =>
    simp only [regionsOf] at h
    cases h1 : regionOf a <;> cases h2 : regionsOf l <;> simp [h1, h2] at h
    subst h; simp [ih h2]

/-- A PLAN_LOAD body makes a plan exactly when every field is in range (R39). -/
theorem planOf_isSome (b : PlanBody) : (planOf b).isSome = true ↔ PlanBody.InRange b := by
  constructor
  · intro h
    unfold planOf at h
    split at h
    · rename_i c j e m a o x rs hc hj he hm ha ho hx hrs
      split at h
      · rename_i g
        have h8 := regionsOf_isSome.1 (by rw [hrs]; rfl)
        rw [regionsOf_length hrs] at g
        exact
          { planClass := Nat.le_of_lt_succ (finOf_isSome.1 (by rw [hc]; rfl))
            joinSet := headSetOf_isSome.1 (by rw [hj]; rfl)
            regionCount := ⟨g.1, g.2.1⟩
            bank := fun r hr => (h8 r hr).1
            rows := fun r hr => (h8 r hr).2.1
            columns := fun r hr => (h8 r hr).2.2.1
            spares := fun r hr => (h8 r hr).2.2.2.1
            policy := fun r hr => (h8 r hr).2.2.2.2
            quota := ⟨g.2.2.1, g.2.2.2.1⟩
            expiry := expiryOf_isSome.1 (by rw [he]; rfl)
            masks := maskSetOf_isSome.1 (by rw [hm]; rfl)
            autoAnalyse := onOff_isSome.1 (by rw [ha]; rfl)
            autoBudget := g.2.2.2.2
            codes := ⟨outcomeMapOf_isSome.1 (by rw [ho]; rfl), codeOf_isSome.1 (by rw [hx]; rfl)⟩ }
      · simp at h
    · simp at h
  · intro r
    obtain ⟨c, hc⟩ := Option.isSome_iff_exists.1
      (finOf_isSome.2 (show b.planClass.toNat < 8 from Nat.lt_succ_of_le r.planClass))
    obtain ⟨j, hj⟩ := Option.isSome_iff_exists.1 (headSetOf_isSome.2 r.joinSet)
    obtain ⟨e, he⟩ := Option.isSome_iff_exists.1 (expiryOf_isSome.2 r.expiry)
    obtain ⟨m, hm⟩ := Option.isSome_iff_exists.1 (maskSetOf_isSome.2 r.masks)
    obtain ⟨a, ha⟩ := Option.isSome_iff_exists.1 (onOff_isSome.2 r.autoAnalyse)
    obtain ⟨o, ho⟩ := Option.isSome_iff_exists.1 (outcomeMapOf_isSome.2 r.codes.1)
    obtain ⟨x, hx⟩ := Option.isSome_iff_exists.1 (codeOf_isSome.2 r.codes.2)
    obtain ⟨rs, hrs⟩ := Option.isSome_iff_exists.1 (regionsOf_isSome.2 fun y hy =>
      ⟨r.bank y hy, r.rows y hy, r.columns y hy, r.spares y hy, r.policy y hy⟩)
    simp only [planOf, hc, hj, he, hm, ha, ho, hx, hrs]
    rw [if_pos]; rfl
    rw [regionsOf_length hrs]
    exact ⟨r.regionCount.1, r.regionCount.2, r.quota.1, r.quota.2, r.autoBudget⟩

theorem low_nibble_byte (b : Byte) (h : b.extractLsb' 4 4 = 0#4) : (b.extractLsb' 0 4).setWidth 8 = b := by
  revert b; decide +kernel

theorem low_seven_byte (b : Byte) (h : ¬ b.msb = true) : (b.extractLsb' 0 7).setWidth 8 = b := by
  revert b; decide +kernel

theorem byteOf_self (b : Byte) : byteOf b.toNat = b := by simp [byteOf]

theorem be16OfNat_self (b : Half) : be16OfNat b.toNat = be16 b := by simp [be16OfNat]

theorem regionOf_bytes {r : RegionBody} {x : Region} (h : regionOf r = some x) : x.bytes = regionBodyWire r := by
  unfold regionOf at h
  split at h
  · simp at h
  · rename_i pl hpl
    split at h
    · injection h with h; subst h
      have : pl.code = r.policy := by
        unfold policyOf at hpl
        split at hpl <;> [skip; split at hpl <;> [skip; split at hpl]] <;> simp_all <;> subst hpl <;> rfl
      simp only [Region.bytes, regionBodyWire, byteOf_self, this]
    · simp at h

theorem regionsOf_bytes {l : List RegionBody} {rs : List Region} (h : regionsOf l = some rs) :
    rs.flatMap Region.bytes = l.flatMap regionBodyWire := by
  induction l generalizing rs with
  | nil => simp [regionsOf] at h; subst h; rfl
  | cons a l ih =>
    simp only [regionsOf] at h
    cases h1 : regionOf a <;> cases h2 : regionsOf l <;> simp [h1, h2] at h
    subst h; simp only [List.flatMap_cons, regionOf_bytes h1, ih h2]

/-- A plan is written back as the body it was read from, without its slot (R41). -/
theorem planOf_bytes {b : PlanBody} {x : Plan} (h : planOf b = some x) : x.bytes = (planBodyWire b).drop 1 := by
  unfold planOf at h
  split at h
  · rename_i c j e m a o y rs hc hj he hm ha ho hy hrs
    split at h
    · injection h with h; subst h
      have h1 : byteOf c.val = b.planClass := by
        unfold finOf at hc; split at hc <;> simp at hc; subst hc; exact byteOf_self _
      have h2 : j.setWidth 8 = b.joinSet := by
        unfold headSetOf at hj; split at hj <;> simp at hj; subst hj; exact low_nibble_byte _ (by assumption)
      have h3 : e.code = b.expiry := by
        unfold expiryOf at he; split at he <;> [skip; split at he] <;> simp_all <;> subst he <;> rfl
      have h4 : m.setWidth 8 = b.masks := by
        unfold maskSetOf at hm; split at hm <;> simp at hm; subst hm; exact low_seven_byte _ (by assumption)
      have h5 : boolByte a = b.autoAnalyse := by
        unfold onOff at ha; split at ha <;> [skip; split at ha] <;> simp_all <;> subst ha <;> rfl
      have h6 : y.setWidth 8 = b.absentCode := by
        unfold codeOf at hy; split at hy <;> simp at hy; subst hy; exact low_nibble_byte _ (by assumption)
      have h7 : o.toList.map (fun c => c.setWidth 8) = b.outcomeMap.toList := by
        unfold outcomeMapOf at ho; split at ho <;> simp at ho
        rename_i g
        subst ho
        apply List.ext_getElem
        · simp
        · intro i p q
          simp only [List.length_map, Vector.length_toList] at p q
          simp
          have := g ⟨i, p⟩
          unfold codeOf at this
          split at this
          · exact low_nibble_byte _ (by assumption)
          · simp at this
      simp only [Plan.bytes, planBodyWire, h1, h2, h3, h4, h5, h6, h7, regionsOf_bytes hrs, be16OfNat_self]
      simp
    · simp at h
  · simp at h

/-! ## WATCH_SET -/

theorem onOff_val {b : Byte} {x : Bool} (h : onOff b = some x) : x = (b == 1) := by
  unfold onOff at h; split at h <;> [skip; split at h] <;> simp_all

theorem headOf_val {b : Byte} {x : HeadId} (h : headOf b = some x) : x.val = b.toNat := by
  unfold headOf finOf at h; split at h <;> simp_all; subst h; rfl

theorem indexOf_val {b : Byte} {x : Fin 4} (h : indexOf b = some x) : x.val = b.toNat := by
  unfold indexOf finOf at h; split at h <;> simp_all; subst h; rfl

theorem siteOf_val {b : Byte} {x : SiteId} (h : siteOf b = some x) : x.val = b.toNat := by
  unfold siteOf finOf at h; split at h <;> simp_all; subst h; rfl

theorem watchSiteOf_isSome {b : Byte} : (watchSiteOf b).isSome = true ↔ b.toNat = 255 ∨ b.toNat ≤ 31 := by
  unfold watchSiteOf; split
  · rename_i h; subst h; simp
  · rename_i h; simp only [Option.isSome_map]; unfold siteOf; rw [finOf_isSome]
    have : b.toNat ≠ 255 := fun e => h (BitVec.eq_of_toNat_eq e)
    omega

theorem watchColumnOf_isSome {b : Half} : (watchColumnOf b).isSome = true ↔ b.toNat = 65535 ∨ b.toNat ≤ 4095 := by
  unfold watchColumnOf; split
  · rename_i h; subst h; simp
  · rename_i h
    have : b.toNat ≠ 65535 := fun e => h (BitVec.eq_of_toNat_eq e)
    split <;> simp <;> omega

/-- A WATCH_SET body makes an entry exactly when every field is in range (R21). -/
theorem watchOf_isSome {b : WatchBody} : (watchOf b).isSome = true ↔ WatchBody.InRange b := by
  constructor
  · intro h
    unfold watchOf at h
    split at h
    · rename_i i v hd s c o e1 e2 e3 e4 e5 e6
      split at h
      · rename_i g
        exact
          ⟨Nat.le_of_lt_succ (finOf_isSome.1 (show (indexOf b.index).isSome from by rw [e1]; rfl)),
            onOff_isSome.1 (by rw [e2]; rfl),
            Nat.le_of_lt_succ (finOf_isSome.1 (show (headOf b.head).isSome from by rw [e3]; rfl)),
            watchSiteOf_isSome.1 (by rw [e4]; rfl), g, watchColumnOf_isSome.1 (by rw [e5]; rfl),
            onOff_isSome.1 (by rw [e6]; rfl)⟩
      · simp at h
    · simp at h
  · intro r
    obtain ⟨i, hi⟩ := Option.isSome_iff_exists.1
      (show (indexOf b.index).isSome = true from finOf_isSome.2 (Nat.lt_succ_of_le r.index))
    obtain ⟨h, hh⟩ := Option.isSome_iff_exists.1
      (show (headOf b.head).isSome = true from finOf_isSome.2 (Nat.lt_succ_of_le r.head))
    obtain ⟨v, hv⟩ := Option.isSome_iff_exists.1 (onOff_isSome.2 r.valid)
    obtain ⟨o, ho⟩ := Option.isSome_iff_exists.1 (onOff_isSome.2 r.hold)
    obtain ⟨s, hs⟩ := Option.isSome_iff_exists.1 (watchSiteOf_isSome.2 r.site)
    obtain ⟨c, hc⟩ := Option.isSome_iff_exists.1 (watchColumnOf_isSome.2 r.column)
    simp only [watchOf, hi, hh, hv, ho, hs, hc]; rw [if_pos r.bank]; rfl

end Sys2Proof.Machine
end

