-- ==== Sys2Proof/Laws/Fail.lean ====
section
/-!
SUPPORT. What a FAIL does: which words are taken, and how the taking of a word splits into the fail count with the watch
check and the region lookup (R5, R6, R148, R187).
-/

namespace Sys2Proof.Machine

/-- A frame of a head is decoded exactly with its link LOCKED and no alignment mark awaited (R148, R187). -/
theorem State.decodes_iff {h : HeadId} {s : State} :
    s.decodes h = true ↔ (s.head h).link = .locked ∧ (s.head h).awaitMark = false := by
  simp [State.decodes]

/-- A word raises WATCH exactly when an entry that it meets holds (R22). -/
theorem State.holdingWatch_iff {w : FailWord} {s : State} : holdingWatch w s = true ↔ s.WatchHolds w := by
  simp [holdingWatch, Watch.meets, State.WatchHolds, and_assoc]

/-- The raise that a statement hands on is the one that the Capture Unit hands on. -/
theorem State.handing_eq (w : FailWord) (c : FailCause) (r : Option Nat) (s : State) :
    s.handing w c r = s.handRaise w c r := by
  have e : decide (c ≠ .watch ∧ s.WatchHolds w) = (c != .watch && holdingWatch w s) := by
    rw [Bool.eq_iff_iff]
    simp [State.holdingWatch_iff]
  simp only [State.handing, State.handRaise, State.onCapture, FailWord.raise, e]

/-- The checks of R5 pass exactly these words. -/
theorem State.failChecked_word {w : FailWord} {s : State} (range : w.bank.toNat ≤ 15 ∧ w.column.toNat ≤ 4095)
    (head : (s.head w.head).state = .inRun) (site : (s.site w.head w.site).state = .testing) :
    s.failChecked w.head (byteOf w.site.val) w.bank w.row w.column = some w := by
  simp [State.failChecked, range, head, site]

/-- A word that is decoded and passes the checks is taken. -/
theorem FailWord.makes_failTaken {w : FailWord} {s : State} (decoded : s.decodes w.head = true)
    (range : w.bank.toNat ≤ 15 ∧ w.column.toNat ≤ 4095) (head : (s.head w.head).state = .inRun)
    (site : (s.site w.head w.site).state = .testing) : w.Makes s (s.failTaken w) := by
  have e := State.failChecked_word range head site
  constructor <;>
    simp only [FailWord.command, exec, execFail, decoded, if_true, State.failFrame, e, Bool.false_eq_true, if_false]

/-- The watch check leaves the runs, plans and regions that the lookup reads. -/
theorem State.watched_same (w : FailWord) (s : State) : State.SameBut [.sites, .port, .capture] s (s.watched w) :=
  State.SameBut.comp (State.onSite_same _ _ _ s) (State.watchCheck_same w _) (by decide) (by decide)

/-- A word that falls in an ANALYSE region open to it goes the path of that region (R7, R9). -/
theorem State.Analyses.makes {w : FailWord} {k : Nat} {s : State} (a : s.Analyses w k) :
    w.Makes s ((s.watched w).analysePath w k) := by
  have sites : (s.watched w).site w.head w.site =
      { s.site w.head w.site with failCount := satInc 65535 (s.site w.head w.site).failCount } := by
    have kept := watchCheck_same w
      (s.onSite w.head w.site fun c => { c with failCount := satInc 65535 c.failCount }) .sites (by decide)
    have : (s.watched w).site w.head w.site = (s.onSite w.head w.site fun c =>
        { c with failCount := satInc 65535 c.failCount }).site w.head w.site :=
      congrArg (fun v => v[w.head][w.site]) kept
    rw [this, State.onSite_site, if_pos ⟨rfl, rfl⟩]
  have plans : (s.watched w).sitePlan ((s.watched w).site w.head w.site) = s.sitePlan (s.site w.head w.site) := by
    have store : (s.watched w).store = s.store := watched_same w s .store (by decide)
    simp only [State.sitePlan, State.planAt, sites, store]
  obtain ⟨p, r, hp, hr, policy⟩ := a.region
  have e : s.failTaken w = (s.watched w).analysePath w k := by
    show (s.watched w).failLookup w = _
    simp only [State.failLookup, plans, hp, Option.map_some, Option.getD_some, hr, State.failInRegion, policy]
    simp [sites, a.open_.1, a.open_.2]
  rw [← e]
  exact FailWord.makes_failTaken a.decoded a.range a.head a.site

end Sys2Proof.Machine
end

