-- ==== Sys2Proof/Laws/Requests.lean ====
section
/-!
SUPPORT. How a request command meets its owner: takeRequest at the owner and away from it, and the owner's answers
(R175, log 4).
-/

namespace Sys2Proof.Machine

/-- At the owner a request command is what the owner does. -/
theorem takeRequest_taken {q : Request} {owner : State → State} {s : State} {p : ControlPort}
    (h : s.port.offer q = some p) : takeRequest q owner s = owner { s with port := p } := by
  simp only [takeRequest, h]

/-- Away from its owner a request command is the coming in of its frame. -/
theorem takeRequest_arrives {q : Request} {owner : State → State} {s : State} (h : s.port.offer q = none) :
    takeRequest q owner s = (s.onPort (ControlPort.receiveFrame q)).emit := by
  simp only [takeRequest, h]

/-- Between two frames a frame passes the framer whole (R172). -/
theorem receiveFrame_between {q : Request} {p : ControlPort} (h : p.framer.betweenFrames = true) :
    p.receiveFrame q = p.arrive q := by
  simp only [ControlPort.receiveFrame, h, if_true]

/-- In a frame, its bytes are received one after the other (R172). -/
theorem receiveFrame_inFrame {q : Request} {p : ControlPort} {bytes : List Byte} (h : p.framer = .inFrame bytes) :
    p.receiveFrame q = (controlFrame q.kind q.tag q.body).foldl ControlPort.receive p := by
  simp [ControlPort.receiveFrame, h, Framer.betweenFrames]

/-- A refusal is the reply with its status alone. -/
theorem refuse_emit (p : ControlPort) (q : Request) (st : Status) (s : State) :
    (State.refuse q st { s with port := p }).emit = s.answered p q st [] := rfl

/-- An answer is the reply OK with its fields. -/
theorem answerOk_emit (p : ControlPort) (q : Request) (fields : List Byte) (s : State) :
    (State.answerOk q fields { s with port := p }).emit = s.answered p q .ok fields := rfl

/-- The request of a command at its owner is the command's. -/
theorem State.AtOwner.request {c : Instr} {q r : Request} {p : ControlPort} {s : State} (h : s.AtOwner c q p)
    (e : requestOf c = some r) : q = r := by
  have := h.1
  rw [e] at this
  exact (Option.some.inj this).symm

/-- Taking marks entries taken and changes nothing else of the port. -/
theorem markTaken_same (p : ControlPort) (tag : Byte) :
    (p.markTaken tag) = { p with window := (p.markTaken tag).window } := rfl

/-- The two ways a request reaches its owner. -/
theorem offer_cases {p p' : ControlPort} {q : Request} (h : p.offer q = some p') :
    (p.atOwner q = true ∧ p' = p.markTaken q.tag) ∨
      (p.framer.betweenFrames = true ∧ p.accepts q = true ∧ p.hasUntaken = false ∧
        p' = { p with framer := .synced, window := p.window ++ [⟨q, .taken⟩] }) := by
  unfold ControlPort.offer at h
  split at h
  · rename_i e
    exact Or.inl ⟨e, (Option.some.inj h).symm⟩
  · split at h
    · rename_i e
      simp only [Bool.and_eq_true, Bool.not_eq_true'] at e
      exact Or.inr ⟨e.1.1, e.1.2, e.2, (Option.some.inj h).symm⟩
    · exact absurd h (by simp)

end Sys2Proof.Machine
end

