-- ==== Sys2Proof/Laws/PerInstr.lean ====
section
/-!
SUPPORT. BodySize: the body of every request command has a size that its kind allows (R186); one lemma for each
constructor of Instr.
-/

namespace Sys2Proof.Laws.BodySize

open Sys2Proof.Machine

/-- The request of the command, if it is one, has a body of a size that its kind allows. -/
def Statement (i : Instr) : Prop := ∀ q, requestOf i = some q → allowedSize q.kind q.body.length = true

/-- A command that is no request has no body. -/
theorem of_none {i : Instr} (h : requestOf i = none) : Statement i := fun q e => by
  rw [h] at e; exact absurd e (by simp)

/-- A request whose kind allows the size of its body. -/
theorem of_some {i : Instr} {q : Request} (h : requestOf i = some q)
    (size : allowedSize q.kind q.body.length = true) : Statement i := fun r e => by
  rw [h] at e; exact Option.some.inj e ▸ size

/-- The wire size of the region descriptors of a plan. -/
theorem regions_length (rs : List RegionBody) : (rs.flatMap regionBodyWire).length = 12 * rs.length := by
  induction rs with
  | nil => rfl
  | cons r rest ih =>
    rw [List.flatMap_cons, List.length_append, ih, List.length_cons]
    have : (regionBodyWire r).length = 12 := rfl
    omega

theorem plan_length (b : PlanBody) : (planBodyWire b).length = 23 + 12 * b.regions.length := by
  simp only [planBodyWire, List.length_append, List.length_cons, List.length_nil, Vector.length_toList,
    regions_length]
  have h32 : (be32 b.patternId).length = 4 := rfl
  have hq : (be16 b.quota).length = 2 := rfl
  have ha : (be16 b.autoBudget).length = 2 := rfl
  omega

theorem configure_length (b : ConfigureBody) : (configureBodyWire b).length = 13 := by
  simp only [configureBodyWire, List.length_append, List.length_cons, List.length_nil, Vector.length_toList]
  rfl

theorem flatMap_be16_length (l : List Half) : (l.flatMap be16).length = 2 * l.length := by
  induction l with
  | nil => rfl
  | cons x rest ih =>
    rw [List.flatMap_cons, List.length_append, ih, List.length_cons]
    have : (be16 x).length = 2 := rfl
    omega

theorem events_length (b : EventsBody) : (eventsBodyWire b).length = 9 := by
  simp only [eventsBodyWire, List.length_append, List.length_cons, List.length_nil, flatMap_be16_length,
    Vector.length_toList]

theorem identify (tag : Byte) : Statement (.identify tag) := of_some rfl rfl
theorem status (tag : Byte) : Statement (.status tag) := of_some rfl rfl
theorem configure (tag : Byte) (body : ConfigureBody) : Statement (.configure tag body) := of_some rfl (by
    show allowedSize Kind.configure (configureBodyWire body).length = true
    rw [configure_length]; rfl)
theorem eventsRead (tag : Byte) (body : EventsBody) : Statement (.eventsRead tag body) := of_some rfl (by
    show allowedSize Kind.eventsRead (eventsBodyWire body).length = true
    rw [events_length]; rfl)
theorem partReset (tag : Byte) : Statement (.partReset tag) := of_some rfl rfl
theorem planLoad (tag : Byte) (body : PlanBody) : Statement (.planLoad tag body) := of_some rfl (by
    show allowedSize Kind.planLoad (planBodyWire body).length = true
    rw [plan_length]; simp [allowedSize])
theorem planRead (tag slot : Byte) : Statement (.planRead tag slot) := of_some rfl rfl
theorem planFree (tag slot : Byte) : Statement (.planFree tag slot) := of_some rfl rfl
theorem siteEnable (tag head : Byte) (set : SiteSet) : Statement (.siteEnable tag head set) := of_some rfl rfl
theorem headLink (tag head enable losDetect alignMode : Byte) : Statement (.headLink tag head enable losDetect alignMode) := of_some rfl rfl
theorem linkShift (tag head : Byte) : Statement (.linkShift tag head) := of_some rfl rfl
theorem supplySet (tag head setting : Byte) : Statement (.supplySet tag head setting) := of_some rfl rfl
theorem headAccess (tag head direction register : Byte) (value : Half) : Statement (.headAccess tag head direction register value) := of_some rfl rfl
theorem headStandby (tag head : Byte) : Statement (.headStandby tag head) := of_some rfl rfl
theorem headWake (tag head : Byte) : Statement (.headWake tag head) := of_some rfl rfl
theorem startConfig (tag : Byte) (body : StartBody) : Statement (.startConfig tag body) := of_some rfl rfl
theorem headEvents (tag head : Byte) (enables : Half) : Statement (.headEvents tag head enables) := of_some rfl rfl
theorem headStatus (tag head : Byte) : Statement (.headStatus tag head) := of_some rfl rfl
theorem headReset (tag head : Byte) : Statement (.headReset tag head) := of_some rfl rfl
theorem runRequest (tag head slot : Byte) : Statement (.runRequest tag head slot) := of_some rfl rfl
theorem runCancel (tag head : Byte) : Statement (.runCancel tag head) := of_some rfl rfl
theorem arbiterSet (tag enable : Byte) : Statement (.arbiterSet tag enable) := of_some rfl rfl
theorem runAbort (tag : Byte) : Statement (.runAbort tag) := of_some rfl rfl
theorem runDropHead (tag head : Byte) : Statement (.runDropHead tag head) := of_some rfl rfl
theorem runSetMask (tag masks : Byte) : Statement (.runSetMask tag masks) := of_some rfl rfl
theorem resume (tag : Byte) : Statement (.resume tag) := of_some rfl rfl
theorem runStatus (tag : Byte) : Statement (.runStatus tag) := of_some rfl rfl
theorem feedReset (tag : Byte) : Statement (.feedReset tag) := of_some rfl rfl
theorem watchSet (tag : Byte) (body : WatchBody) : Statement (.watchSet tag body) := of_some rfl rfl
theorem watchRead (tag index : Byte) : Statement (.watchRead tag index) := of_some rfl rfl
theorem tableRead (tag head site : Byte) (start : Half) (count : Byte) : Statement (.tableRead tag head site start count) := of_some rfl rfl
theorem siteResult (tag head site : Byte) : Statement (.siteResult tag head site) := of_some rfl rfl
theorem analyse (tag head : Byte) (budget : Half) (force : Byte) : Statement (.analyse tag head budget force) := of_some rfl rfl
theorem binConfig (tag head format timeout : Byte) : Statement (.binConfig tag head format timeout) := of_some rfl rfl
theorem binRelease (tag head : Byte) : Statement (.binRelease tag head) := of_some rfl rfl
theorem binStatus (tag head : Byte) : Statement (.binStatus tag head) := of_some rfl rfl
theorem powerOnReset : Statement .powerOnReset := of_none rfl
theorem controlFrameReceive (bytes : List Byte) : Statement (.controlFrameReceive bytes) := of_none rfl
theorem controlByteDiscard (byte : Byte) : Statement (.controlByteDiscard byte) := of_none rfl
theorem requestHandOn : Statement .requestHandOn := of_none rfl
theorem frameSent : Statement .frameSent := of_none rfl
theorem accept (runNumber : Half) : Statement (.accept runNumber) := of_none rfl
theorem decline (reason : Byte) : Statement (.decline reason) := of_none rfl
theorem acceptTimeout : Statement .acceptTimeout := of_none rfl
theorem block (payload : List Byte) : Statement (.block payload) := of_none rfl
theorem gateOpen (limit : Half) : Statement (.gateOpen limit) := of_none rfl
theorem gateClose : Statement .gateClose := of_none rfl
theorem endRecord : Statement .endRecord := of_none rfl
theorem halted : Statement .halted := of_none rfl
theorem resetDone : Statement .resetDone := of_none rfl
theorem feedMessageIllFormed (bytes : List Byte) : Statement (.feedMessageIllFormed bytes) := of_none rfl
theorem haltTimeout : Statement .haltTimeout := of_none rfl
theorem feedResetTimeout : Statement .feedResetTimeout := of_none rfl
theorem tallyTimeoutDeciding : Statement .tallyTimeoutDeciding := of_none rfl
theorem tallyTimeoutDraining : Statement .tallyTimeoutDraining := of_none rfl
theorem fail (head : FailLink) (site bank : Byte) (row column : Half) : Statement (.fail head site bank row column) :=
  of_none rfl
theorem passTally (head : HeadId) (depth pass : Half) (matched : SiteSet) : Statement (.passTally head depth pass matched) := of_none rfl
theorem endTally (head : HeadId) : Statement (.endTally head) := of_none rfl
theorem allocatorMove : Statement .allocatorMove := of_none rfl
theorem binDelivery (head : HeadId) : Statement (.binDelivery head) := of_none rfl
theorem binStaleExpiry (head : HeadId) : Statement (.binStaleExpiry head) := of_none rfl
theorem startLineChange (head : HeadId) (level : LineLevel) : Statement (.startLineChange head level) := of_none rfl
theorem startCandidateExpiry (head : HeadId) : Statement (.startCandidateExpiry head) := of_none rfl
theorem alignMarkPlaced (head : HeadId) : Statement (.alignMarkPlaced head) := of_none rfl
theorem alignMarkMisplaced (head : HeadId) (position : Fin 16) : Statement (.alignMarkMisplaced head position) := of_none rfl
theorem signalLoss (head : HeadId) : Statement (.signalLoss head) := of_none rfl
theorem reseekTimerExpiry (head : HeadId) : Statement (.reseekTimerExpiry head) := of_none rfl
theorem headFrameDiscard (head : HeadId) (bytes : List Byte) : Statement (.headFrameDiscard head bytes) := of_none rfl
theorem serviceReply (head : HeadId) (number : Byte) (result : ServiceResult) (value : Half) : Statement (.serviceReply head number result value) := of_none rfl
theorem serviceTimeout (head : HeadId) : Statement (.serviceTimeout head) := of_none rfl
theorem supplyTrip (head : HeadId) : Statement (.supplyTrip head) := of_none rfl
theorem bclkEdge (head : HeadId) (level : LineLevel) : Statement (.bclkEdge head level) := of_none rfl

end Sys2Proof.Laws.BodySize
end

