-- ==== Sys2Proof/Laws/Table.lean ====
section
/-!
SUPPORT. The Fail Table as a store: every operation keeps its canonical form, and what a read finds afterwards (R1 to
R3).
-/

namespace Sys2Proof.Machine.FailTable

/-- `t` holds indices from `k` on, strictly rising. -/
theorem risingFrom_cons {k i : Nat} {e : Entry} {t : FailTable} :
    risingFrom k ((i, e) :: t) = true ↔ k ≤ i ∧ risingFrom (i + 1) t = true := by
  simp [risingFrom]

theorem risingFrom_mono {j k : Nat} (h : j ≤ k) {t : FailTable} (r : risingFrom k t = true) :
    risingFrom j t = true := by
  cases t with
  | nil => rfl
  | cons x t => obtain ⟨i, e⟩ := x; rw [risingFrom_cons] at *; exact ⟨Nat.le_trans h r.1, r.2⟩

/-- Every index of a rising table is at least its bound. -/
theorem risingFrom_le {k : Nat} {t : FailTable} (r : risingFrom k t = true) : ∀ x ∈ t, k ≤ x.1 := by
  induction t generalizing k with
  | nil => simp
  | cons y t ih =>
    obtain ⟨i, e⟩ := y
    rw [risingFrom_cons] at r
    intro x hx
    rcases List.mem_cons.mp hx with h | h
    · subst h; exact r.1
    · have := ih r.2 x h; omega

/-- The canonical form as a proposition. -/
theorem wf_iff {t : FailTable} : t.wf = true ↔ risingFrom 0 t = true ∧ ∀ x ∈ t, x.1 < 4096 := by
  unfold wf
  rw [Bool.and_eq_true, List.all_eq_true]
  exact and_congr_right fun _ => forall₂_congr fun x _ => decide_eq_true_iff

/-! ## Rising -/

theorem rising_filter (p : Nat × Entry → Bool) {k : Nat} {t : FailTable} (r : risingFrom k t = true) :
    risingFrom k (t.filter p) = true := by
  induction t generalizing k with
  | nil => rfl
  | cons x t ih =>
    obtain ⟨i, e⟩ := x
    rw [risingFrom_cons] at r
    rw [List.filter_cons]
    split
    · rw [risingFrom_cons]; exact ⟨r.1, ih r.2⟩
    · exact ih (risingFrom_mono (by omega) r.2)

theorem rising_map (f : Nat × Entry → Nat × Entry) (h : ∀ x, (f x).1 = x.1) {k : Nat} {t : FailTable}
    (r : risingFrom k t = true) : risingFrom k (t.map f) = true := by
  induction t generalizing k with
  | nil => rfl
  | cons x t ih =>
    obtain ⟨i, e⟩ := x
    rw [risingFrom_cons] at r
    have hi : (f (i, e)).1 = i := h (i, e)
    rw [List.map_cons, ← Prod.mk.eta (p := f (i, e)), risingFrom_cons, hi]
    exact ⟨r.1, ih r.2⟩

theorem rising_write {k i : Nat} (h : k ≤ i) (e : Entry) {t : FailTable} (r : risingFrom k t = true) :
    risingFrom k (write i e t) = true := by
  induction t generalizing k with
  | nil => simp [write, risingFrom, h]
  | cons x t ih =>
    obtain ⟨j, f⟩ := x
    rw [risingFrom_cons] at r
    unfold write
    split
    · rw [risingFrom_cons, risingFrom_cons]; exact ⟨h, by omega, r.2⟩
    · split
      · subst_vars; rw [risingFrom_cons]; exact r
      · rw [risingFrom_cons]; exact ⟨r.1, ih (by omega) r.2⟩

/-! ## The canonical form is kept -/

theorem mem_write {i : Nat} {e : Entry} {t : FailTable} {x : Nat × Entry} (h : x ∈ write i e t) :
    x = (i, e) ∨ x ∈ t := by
  induction t with
  | nil => simp [write] at h; exact Or.inl h
  | cons y t ih =>
    obtain ⟨j, f⟩ := y
    unfold write at h
    split at h
    · rcases List.mem_cons.mp h with h | h
      · exact Or.inl h
      · exact Or.inr h
    · split at h
      · rcases List.mem_cons.mp h with h | h
        · exact Or.inl h
        · exact Or.inr (List.mem_cons_of_mem _ h)
      · rcases List.mem_cons.mp h with h | h
        · exact Or.inr (h ▸ List.mem_cons_self ..)
        · rcases ih h with h | h
          · exact Or.inl h
          · exact Or.inr (List.mem_cons_of_mem _ h)

/-- Writing an entry at an index of the table keeps the canonical form. -/
theorem wf_write {i : Nat} (h : i < 4096) (e : Entry) {t : FailTable} (w : t.wf = true) :
    FailTable.wf (write i e t) = true := by
  rw [wf_iff] at *
  refine ⟨rising_write (Nat.zero_le _) e w.1, fun x hx => ?_⟩
  rcases mem_write hx with r | r
  · subst r; exact h
  · exact w.2 x r

/-- Freeing entries keeps the canonical form. -/
theorem wf_free (p : Entry → Bool) {t : FailTable} (w : t.wf = true) : FailTable.wf (free p t) = true := by
  rw [wf_iff] at *
  exact ⟨rising_filter _ w.1, fun x hx => w.2 x (List.mem_of_mem_filter hx)⟩

/-- Counting a hit keeps the canonical form. -/
theorem wf_setHits (i n : Nat) {t : FailTable} (w : t.wf = true) : FailTable.wf (setHits i n t) = true := by
  rw [wf_iff] at *
  have key : ∀ x : Nat × Entry, (if x.1 = i then (x.1, { x.2 with hits := n }) else x).1 = x.1 := by
    intro x; split <;> rfl
  refine ⟨rising_map _ key w.1, fun x hx => ?_⟩
  obtain ⟨y, hy, rfl⟩ := List.mem_map.mp hx
  rw [key]
  exact w.2 y hy

/-- The table after reset is in canonical form. -/
theorem wf_nil : FailTable.wf [] = true := rfl

/-! ## Reading -/

theorem read_cons (i j : Nat) (e : Entry) (t : FailTable) :
    FailTable.read ((i, e) :: t) j = if i = j then some e else FailTable.read t j := by
  unfold read
  rw [List.find?_cons]
  by_cases h : i = j
  · simp [h]
  · have : (i == j) = false := by simp [h]
    simp [this, h]

theorem read_none_of_rising {k j : Nat} {t : FailTable} (r : risingFrom k t = true) (h : j < k) : t.read j = none := by
  induction t generalizing k with
  | nil => rfl
  | cons x t ih =>
    obtain ⟨i, e⟩ := x
    rw [risingFrom_cons] at r
    rw [read_cons, if_neg (by omega)]
    exact ih r.2 (by omega)

/-- After a write the index reads as the entry, and every other index as before. -/
theorem read_write {k i : Nat} {e : Entry} {t : FailTable} (r : risingFrom k t = true) (j : Nat) :
    FailTable.read (write i e t) j = if j = i then some e else t.read j := by
  induction t generalizing k with
  | nil =>
    rw [show write i e [] = [(i, e)] from rfl, read_cons]
    by_cases h : j = i
    · simp [h]
    · rw [if_neg (Ne.symm h), if_neg h]
  | cons x t ih =>
    obtain ⟨m, f⟩ := x
    rw [risingFrom_cons] at r
    unfold write
    split
    · rw [read_cons]
      by_cases h : j = i
      · simp [h]
      · rw [if_neg (Ne.symm h), if_neg h]
    · split
      · subst_vars
        rw [read_cons, read_cons]
        by_cases h : j = m
        · simp [h]
        · rw [if_neg (Ne.symm h), if_neg h, if_neg (Ne.symm h)]
      · rw [read_cons, read_cons, ih r.2]
        by_cases h : m = j
        · rw [if_pos h, if_neg (by omega), if_pos h]
        · rw [if_neg h, if_neg h]

/-- An index reads as an entry exactly when the pair is listed. -/
theorem read_some_iff {k j : Nat} {e : Entry} {t : FailTable} (r : risingFrom k t = true) :
    t.read j = some e ↔ (j, e) ∈ t := by
  induction t generalizing k with
  | nil => simp [read]
  | cons x t ih =>
    obtain ⟨i, f⟩ := x
    rw [risingFrom_cons] at r
    rw [read_cons, List.mem_cons]
    by_cases h : i = j
    · subst h
      rw [if_pos rfl]
      constructor
      · intro q; exact Or.inl (by rw [Option.some.inj q])
      · rintro (q | q)
        · rw [(Prod.mk.inj q).2]
        · exact absurd (risingFrom_le r.2 _ q) (by simp)
    · rw [if_neg h, ih r.2]
      constructor
      · exact Or.inr
      · rintro (q | q)
        · exact absurd (Prod.mk.inj q).1.symm h
        · exact q

/-- An index is FREE exactly when no entry is listed at it. -/
theorem read_none_iff {j : Nat} {t : FailTable} : t.read j = none ↔ ∀ x ∈ t, x.1 ≠ j := by
  simp [read]

/-! ## The first FREE entry -/

theorem lowestFrom_spec {k : Nat} {t : FailTable} (r : risingFrom k t = true) :
    k ≤ lowestFrom k t ∧ t.read (lowestFrom k t) = none ∧ ∀ j, k ≤ j → j < lowestFrom k t → t.read j ≠ none := by
  induction t generalizing k with
  | nil => exact ⟨Nat.le_refl _, rfl, fun j h1 h2 => absurd h2 (by simp [lowestFrom]; omega)⟩
  | cons x t ih =>
    obtain ⟨i, e⟩ := x
    rw [risingFrom_cons] at r
    unfold lowestFrom
    split
    · rename_i h
      subst h
      obtain ⟨a, b, c⟩ := ih r.2
      refine ⟨by omega, ?_, ?_⟩
      · rw [read_cons, if_neg (by omega)]; exact b
      · intro j h1 h2
        rw [read_cons]
        by_cases hj : i = j
        · simp [hj]
        · rw [if_neg hj]; exact c j (by omega) h2
    · rename_i h
      refine ⟨Nat.le_refl _, ?_, fun j h1 h2 => absurd h2 (by omega)⟩
      rw [read_cons, if_neg h]
      exact read_none_of_rising r.2 (by omega)

theorem lowestFree_below {t : FailTable} (h : lowestFrom 0 t < 4096) : t.lowestFree = some (lowestFrom 0 t) :=
  if_pos h

theorem lowestFree_at {t : FailTable} (h : ¬ lowestFrom 0 t < 4096) : t.lowestFree = none := if_neg h

/-- The FREE entry of lowest index is the first FREE entry of the table (R3). -/
theorem lowestFree_iff {t : FailTable} (w : t.wf = true) (i : Nat) : t.lowestFree = some i ↔ t.FirstFree i := by
  have spec := lowestFrom_spec (wf_iff.mp w).1
  have value : t.lowestFree = some i ↔ lowestFrom 0 t = i ∧ i < 4096 := by
    by_cases l : lowestFrom 0 t < 4096
    · rw [lowestFree_below l, Option.some.injEq]
      exact ⟨fun h => ⟨h, h ▸ l⟩, fun h => h.1⟩
    · rw [lowestFree_at l]
      exact ⟨fun h => absurd h (by simp), fun h => absurd (h.1 ▸ h.2) l⟩
  rw [value]
  constructor
  · rintro ⟨h, l⟩
    subst h
    exact ⟨l, spec.2.1, fun j hj => spec.2.2 j (Nat.zero_le _) hj⟩
  · rintro ⟨l, free, before⟩
    refine ⟨?_, l⟩
    rcases Nat.lt_trichotomy (lowestFrom 0 t) i with h | h | h
    · exact absurd spec.2.1 (before _ h)
    · exact h
    · exact absurd free (spec.2.2 i (Nat.zero_le _) h)

/-- A rising table from `k` with indices below `n` that holds every index lists `n - k` entries at most. -/
theorem length_le {k n : Nat} {t : FailTable} (r : risingFrom k t = true) (b : ∀ x ∈ t, x.1 < n) :
    t.length ≤ n - k := by
  induction t generalizing k with
  | nil => simp
  | cons x t ih =>
    obtain ⟨i, e⟩ := x
    rw [risingFrom_cons] at r
    have hi := b (i, e) (List.mem_cons_self ..)
    have := ih r.2 fun y hy => b y (List.mem_cons_of_mem _ hy)
    simp only [List.length_cons]
    simp only at hi
    omega

/-- With 4096 entries listed none is FREE (R3). -/
theorem lowestFree_full {t : FailTable} (w : t.wf = true) (h : t.length = 4096) : t.lowestFree = none := by
  have key : ∀ (k : Nat) (t : FailTable), risingFrom k t = true → (∀ x ∈ t, x.1 < 4096) → t.length = 4096 - k →
      k ≤ 4096 → lowestFrom k t = 4096 := by
    intro k t
    induction t generalizing k with
    | nil => intro _ _ hl hk; simp at hl; simp [lowestFrom]; omega
    | cons x t ih =>
      obtain ⟨i, e⟩ := x
      intro r b hl hk
      rw [risingFrom_cons] at r
      have hi := b (i, e) (List.mem_cons_self ..)
      have bt : ∀ y ∈ t, y.1 < 4096 := fun y hy => b y (List.mem_cons_of_mem _ hy)
      have le := length_le r.2 bt
      simp only [List.length_cons] at hl hi
      have : i = k := by omega
      subst this
      unfold lowestFrom
      rw [if_pos rfl]
      exact ih (i + 1) r.2 bt (by omega) (by omega)
  have := key 0 t (wf_iff.mp w).1 (wf_iff.mp w).2 h (by omega)
  exact lowestFree_at (by omega)

/-- With fewer entries listed one is FREE (R3). -/
theorem lowestFree_some {t : FailTable} (h : t.length < 4096) : ∃ i, t.lowestFree = some i := by
  have key : ∀ (k : Nat) (t : FailTable), lowestFrom k t ≤ k + t.length := by
    intro k t
    induction t generalizing k with
    | nil => simp [lowestFrom]
    | cons x t ih =>
      obtain ⟨i, e⟩ := x
      unfold lowestFrom
      split
      · have := ih (k + 1); simp only [List.length_cons]; omega
      · simp only [List.length_cons]; omega
  have := key 0 t
  exact ⟨lowestFrom 0 t, lowestFree_below (by omega)⟩

end Sys2Proof.Machine.FailTable
end

