-- ==== Sys2Proof/Laws/Updates.lean ====
section
/-!
SUPPORT. How updates compose: two updates of one place are one, an update depends on what stands at its place alone,
and updates of different blocks come in either order.
-/

namespace Sys2Proof.Machine

/-- Two vectors with the same elements are the same. -/
theorem vector_ext {α : Type} {n : Nat} {v w : Vector α n} (h : ∀ i : Fin n, v[i] = w[i]) : v = w :=
  Vector.ext fun i hi => h ⟨i, hi⟩

theorem ofFn_get {α : Type} {n : Nat} (f : Fin n → α) (i : Fin n) : (Vector.ofFn f)[i] = f i := by simp

theorem upd_upd {α : Type} {n : Nat} (v : Vector α n) (i : Fin n) (f g : α → α) :
    upd (upd v i f) i g = upd v i fun x => g (f x) := by
  refine vector_ext fun j => ?_
  simp only [State.upd_get, if_true]
  split <;> rfl

/-- An update depends only on what it makes of the element at its place. -/
theorem upd_congr {α : Type} {n : Nat} (v : Vector α n) (i : Fin n) {f g : α → α} (h : f v[i] = g v[i]) :
    upd v i f = upd v i g := by
  refine vector_ext fun j => ?_
  simp only [State.upd_get, h]

theorem upd_self {α : Type} {n : Nat} (v : Vector α n) (i : Fin n) {f : α → α} (h : f v[i] = v[i]) : upd v i f = v := by
  refine vector_ext fun j => ?_
  simp only [State.upd_get, h]
  split
  · rename_i e; rw [e]
  · rfl

/-- Updates at different places come in either order. -/
theorem upd_comm {α : Type} {n : Nat} (v : Vector α n) {i j : Fin n} (f g : α → α) (h : i ≠ j) :
    upd (upd v i f) j g = upd (upd v j g) i f := by
  refine vector_ext fun k => ?_
  simp only [State.upd_get]
  by_cases a : k = i
  · subst a; simp [h]
  · by_cases b : k = j
    · subst b; simp [a]
    · simp [a, b]

/-- The vector of the updated elements, one by one. -/
theorem upd_eq_ofFn {α : Type} {n : Nat} (v : Vector α n) (i : Fin n) (f : α → α) :
    upd v i f = Vector.ofFn fun j => if j = i then f v[j] else v[j] := by
  refine vector_ext fun j => ?_
  rw [State.upd_get, ofFn_get]
  split
  · rename_i e; rw [e]
  · rfl

namespace State

theorem onHead_onHead (h : HeadId) (f g : HeadContext → HeadContext) (s : State) :
    (s.onHead h f).onHead h g = s.onHead h fun c => g (f c) := by
  unfold onHead
  rw [upd_upd]

theorem onHead_congr (h : HeadId) {f g : HeadContext → HeadContext} (s : State) (e : f (s.head h) = g (s.head h)) :
    s.onHead h f = s.onHead h g := by
  unfold onHead
  rw [upd_congr s.heads h e]

theorem onHead_self (h : HeadId) {f : HeadContext → HeadContext} (s : State) (e : f (s.head h) = s.head h) :
    s.onHead h f = s := by
  unfold onHead
  rw [upd_self s.heads h e]

theorem onBin_onBin (h : HeadId) (f g : BinPort → BinPort) (s : State) :
    (s.onBin h f).onBin h g = s.onBin h fun c => g (f c) := by
  unfold onBin
  rw [upd_upd]

theorem onBin_congr (h : HeadId) {f g : BinPort → BinPort} (s : State) (e : f (s.bin h) = g (s.bin h)) :
    s.onBin h f = s.onBin h g := by
  unfold onBin
  rw [upd_congr s.bins h e]

theorem mapSites_congr (h : HeadId) {f g : SiteId → SiteContext → SiteContext} (s : State)
    (e : ∀ i, f i (s.site h i) = g i (s.site h i)) : s.mapSites h f = s.mapSites h g := by
  have a : (Vector.ofFn fun i => f i (s.sites[h])[i]) = Vector.ofFn fun i => g i (s.sites[h])[i] :=
    vector_ext fun i => by rw [ofFn_get, ofFn_get]; exact e i
  show ({ s with sites := upd s.sites h _ } : State) = { s with sites := upd s.sites h _ }
  rw [upd_congr (f := fun v => Vector.ofFn fun i => f i v[i]) (g := fun v => Vector.ofFn fun i => g i v[i]) s.sites h a]

theorem mapSites_mapSites (h : HeadId) (f g : SiteId → SiteContext → SiteContext) (s : State) :
    (s.mapSites h f).mapSites h g = s.mapSites h fun i c => g i (f i c) := by
  simp only [mapSites, upd_upd, ofFn_get]

/-- The same sites, and the same heads, one by one. -/
theorem site_ext {s t : State} (e : ∀ h i, s.site h i = t.site h i) : s.sites = t.sites :=
  vector_ext fun h => vector_ext fun i => e h i

theorem head_ext {s t : State} (e : ∀ h, s.head h = t.head h) : s.heads = t.heads := vector_ext e

/-- Two states that agree block by block are the same. -/
theorem ext_blocks {s t : State} (h : ∀ b, State.agrees b s t) : t = s := by
  have a := h .port; have b := h .store; have c := h .heads; have d := h .arbiter; have e := h .run
  have f := h .gates; have g := h .capture; have i := h .sites; have j := h .alloc; have k := h .bins
  have l := h .lines; have m := h .wire; have n := h .pending
  simp only [State.agrees] at a b c d e f g i j k l m n
  cases s; cases t
  simp only at a b c d e f g i j k l m n
  subst a b c d e f g i j k l m n
  rfl

/-- A frame that leaves down the Head Link of one head (R148). -/
theorem sendHead_eq (h : HeadId) (f : HeadFrame) (s : State) :
    s.sendHead h f = { s with wire := { s.wire with
      toHead := upd s.wire.toHead h fun l => l ++ if (s.head h).link = .locked then [f] else [] } } := by
  unfold sendHead
  split
  · rfl
  · simp only [List.append_nil]
    rw [upd_self _ _ rfl]

/-! ## What the port does after an update of another block -/

section
variable (h : HeadId) (i : SlotId) (k t : Byte) (st : Status) (fields : List Byte) (q : Request) (s : State)

theorem emit_onHead (f : HeadContext → HeadContext) : (s.onHead h f).emit = s.emit.onHead h f := rfl
theorem emit_onBin (f : BinPort → BinPort) : (s.onBin h f).emit = s.emit.onBin h f := rfl
theorem emit_onRun (f : RunController → RunController) : (s.onRun f).emit = s.emit.onRun f := rfl
theorem emit_onStore (f : PlanStore → PlanStore) : (s.onStore f).emit = s.emit.onStore f := rfl
theorem emit_onArbiter (f : Arbiter → Arbiter) : (s.onArbiter f).emit = s.emit.onArbiter f := rfl
theorem emit_onWire (f : Wire → Wire) : (s.onWire f).emit = s.emit.onWire f := rfl
theorem answer_onHead (f : HeadContext → HeadContext) :
    (s.onHead h f).answer k t st fields = (s.answer k t st fields).onHead h f := rfl
theorem answer_onBin (f : BinPort → BinPort) :
    (s.onBin h f).answer k t st fields = (s.answer k t st fields).onBin h f := rfl
theorem answer_onRun (f : RunController → RunController) :
    (s.onRun f).answer k t st fields = (s.answer k t st fields).onRun f := rfl
theorem answer_onStore (f : PlanStore → PlanStore) :
    (s.onStore f).answer k t st fields = (s.answer k t st fields).onStore f := rfl
theorem answer_onArbiter (f : Arbiter → Arbiter) :
    (s.onArbiter f).answer k t st fields = (s.answer k t st fields).onArbiter f := rfl
theorem answer_onWire (f : Wire → Wire) :
    (s.onWire f).answer k t st fields = (s.answer k t st fields).onWire f := rfl
theorem answer_dropUse (o : Option SlotId) :
    (s.dropUse o).answer k t st fields = (s.answer k t st fields).dropUse o := by cases o <;> rfl
end

/-! ## What leaves the part (R148) -/

section
variable (s : State)

theorem sending_none : s.sending [] (fun _ => []) = s.wire := by
  have : (Vector.ofFn fun h => s.wire.toHead[h] ++ if (s.head h).link = .locked then [] else []) = s.wire.toHead :=
    vector_ext fun h => by rw [ofFn_get]; split <;> exact List.append_nil _
  unfold sending
  rw [this, List.append_nil]

theorem sendHead_sending (h : HeadId) (f : HeadFrame) :
    s.sendHead h f = { s with wire := s.sending [] fun k => onlyIf (k == h) f } := by
  rw [sendHead_eq]
  unfold sending onlyIf
  have : (upd s.wire.toHead h fun l => l ++ if (s.head h).link = .locked then [f] else []) =
      Vector.ofFn fun k => s.wire.toHead[k] ++ if (s.head k).link = .locked then if (k == h) = true then [f] else [] else [] := by
    refine vector_ext fun k => ?_
    rw [upd_get, ofFn_get]
    by_cases e : k = h
    · subst e; simp
    · simp [e]
  rw [this, List.append_nil]

theorem sendSource_sending (m : SourceMessage) : s.sendSource m = { s with wire := s.sending [m] fun _ => [] } := by
  have : (Vector.ofFn fun h => s.wire.toHead[h] ++ if (s.head h).link = .locked then [] else []) = s.wire.toHead :=
    vector_ext fun h => by rw [ofFn_get]; split <;> exact List.append_nil _
  unfold sendSource onWire sending
  rw [this]

/-- What is sent in two parts over links that stand the same. -/
theorem sending_sending (u v : List SourceMessage) (f g : HeadId → List HeadFrame) (t : State)
    (links : ∀ h, (t.head h).link = (s.head h).link) (w : t.wire = s.sending u f) :
    t.sending v g = s.sending (u ++ v) fun h => f h ++ g h := by
  unfold sending at w ⊢
  rw [w]
  simp only [List.append_assoc, ofFn_get, links]
  congr 1
  refine vector_ext fun h => ?_
  rw [ofFn_get, ofFn_get]
  split <;> simp

/-- One frame down the link of each head of a set. -/
theorem forHeads_sendHead (set : HeadSet) (f : HeadId → HeadFrame) :
    (s.forHeads set fun h => sendHead h (f h)) =
      { s with wire := s.sending [] fun k => onlyIf (set.getLsbD k.val) (f k) } := by
  have one : ∀ (t : State) (h : HeadId), (if set.getLsbD h.val then t.sendHead h (f h) else t) =
      { t with wire := t.sending [] fun k => onlyIf (k == h && set.getLsbD k.val) (f k) } := by
    intro t h
    split
    · rename_i e
      rw [sendHead_sending]
      have : (fun k => onlyIf (k == h) (f h)) = fun k => onlyIf (k == h && set.getLsbD k.val) (f k) := by
        funext k
        by_cases a : k = h
        · subst a; rw [e, Bool.and_true]
        · simp [a, onlyIf]
      rw [this]
    · rename_i e
      have : (fun k => onlyIf (k == h && set.getLsbD k.val) (f k)) = fun _ => ([] : List HeadFrame) := by
        funext k
        by_cases a : k = h
        · subst a
          simp only [Bool.not_eq_true] at e
          simp only [e, Bool.and_false]
          rfl
        · simp [a, onlyIf]
      rw [this, sending_none]
  unfold forHeads
  simp only [allHeads, List.foldl_cons, List.foldl_nil, one]
  have two : ∀ f g : HeadId → List HeadFrame,
      State.sending { s with wire := s.sending [] f } [] g = s.sending [] fun h => f h ++ g h :=
    fun f g => sending_sending s [] [] f g _ (fun _ => rfl) rfl
  simp only [two]
  congr 1
  congr 1
  funext k
  revert k
  simp [Fin.forall_fin_succ, onlyIf]

end

/-- What is sent depends on the wire and the links alone. -/
theorem sending_congr {s t : State} (w : t.wire = s.wire) (links : ∀ h, (t.head h).link = (s.head h).link)
    (u : List SourceMessage) (f : HeadId → List HeadFrame) : t.sending u f = s.sending u f := by
  unfold sending
  simp only [w, links]

/-- The links after an update of a head that keeps its link. -/
theorem onHead_links (h : HeadId) {f : HeadContext → HeadContext} (s : State) (e : (f (s.head h)).link = (s.head h).link)
    (k : HeadId) : ((s.onHead h f).head k).link = (s.head k).link := by
  rw [onHead_head]
  split
  · rename_i x; rw [x, e]
  · rfl

/-- A head is updated and then sent a frame. -/
theorem sendHead_onHead (h : HeadId) {f : HeadContext → HeadContext} (x : HeadFrame) (s : State)
    (e : (f (s.head h)).link = (s.head h).link) :
    (s.onHead h f).sendHead h x =
      { s with heads := upd s.heads h f, wire := s.sending [] fun k => onlyIf (k == h) x } := by
  rw [sendHead_sending, sending_congr (s := s) (t := s.onHead h f) rfl (onHead_links h s e)]
  rfl

/-- Issuing a service: the next number, the slot busy with the timer of the operation, and the SERVICE frame (R149). -/
theorem issueService_eq (h : HeadId) (op : ServiceOp) (origin : ServiceOrigin) (s : State) :
    s.issueService h op origin = { s with
      heads := upd s.heads h fun c =>
        { c with serviceNumber := c.serviceNumber + 1,
                 slot := some ⟨op, origin, c.serviceNumber + 1, op.timeout⟩ }
      wire := s.sending [] fun k => onlyIf (k == h) (.service ((s.head h).serviceNumber + 1) op) } := by
  have a : upd s.heads h (fun c =>
        { c with serviceNumber := (s.head h).serviceNumber + 1,
                 slot := some ⟨op, origin, (s.head h).serviceNumber + 1, op.timeout⟩ }) =
      upd s.heads h fun c =>
        { c with serviceNumber := c.serviceNumber + 1,
                 slot := some ⟨op, origin, c.serviceNumber + 1, op.timeout⟩ } := upd_congr _ _ rfl
  unfold issueService
  rw [← a]
  exact sendHead_onHead h _ s rfl

end State

end Sys2Proof.Machine
end

