-- ==== Sys2Proof/WellFormed.lean ====
section
/-!
DEFINITION. The commands whose operands lie in the ranges of their layouts (spec 11). A command outside them still has
a meaning; the check says which commands the partners' layouts can spell under the command's own name.
-/

namespace Sys2Proof

/-- Requests carry tags 1 to 255 (11.2). -/
def tagFits (tag : Byte) : Bool := tag != 0#8

/-- A frame on the Control Link is at most 1031 bytes: sync, length, 1026 counted bytes, CRC (11.2). -/
def frameFits (bytes : List Byte) : Bool := decide (1 ≤ bytes.length) && decide (bytes.length ≤ 1031)

/-- A PLAN_LOAD body of at most 1024 bytes holds at most 83 region descriptors (section 10.1, 11.3). -/
def regionsFit (b : PlanBody) : Bool := decide (b.regions.length ≤ 83)

/-- The bytes of one message of the source end with its last counted byte, whatever its kind; a message that breaks off
before its length could be read has no counted bytes (R188). -/
def messageEnds (bytes : List Byte) : Bool :=
  match bytes with
  | _ :: hi :: lo :: fields => decide (fields.length = (Machine.half hi lo).toNat)
  | _ => true

/-- The bytes of one frame of a head end with its check byte, or with its length field when that is above 1027 (R187). -/
def headFrameEnds (bytes : List Byte) : Bool :=
  match bytes with
  | _ :: hi :: lo :: rest =>
    if 1027 < (Machine.half hi lo).toNat then rest.isEmpty else decide (rest.length = (Machine.half hi lo).toNat + 1)
  | _ => true

/-- The operands of a command lie in the ranges of its layout. -/
def Instr.wellFormed : Instr → Bool
  | .powerOnReset => true
  | .controlFrameReceive bytes => frameFits bytes
  | .controlByteDiscard b => b != Config.syncByte
  | .requestHandOn => true
  | .frameSent => true
  | .identify t => tagFits t
  | .status t => tagFits t
  | .configure t _ => tagFits t
  | .eventsRead t _ => tagFits t
  | .partReset t => tagFits t
  | .planLoad t b => tagFits t && regionsFit b
  | .planRead t _ => tagFits t
  | .planFree t _ => tagFits t
  | .siteEnable t _ _ => tagFits t
  | .headLink t _ _ _ _ => tagFits t
  | .linkShift t _ => tagFits t
  | .supplySet t _ _ => tagFits t
  | .headAccess t _ _ _ _ => tagFits t
  | .headStandby t _ => tagFits t
  | .headWake t _ => tagFits t
  | .startConfig t _ => tagFits t
  | .headEvents t _ _ => tagFits t
  | .headStatus t _ => tagFits t
  | .headReset t _ => tagFits t
  | .runRequest t _ _ => tagFits t
  | .runCancel t _ => tagFits t
  | .arbiterSet t _ => tagFits t
  | .runAbort t => tagFits t
  | .runDropHead t _ => tagFits t
  | .runSetMask t _ => tagFits t
  | .resume t => tagFits t
  | .runStatus t => tagFits t
  | .feedReset t => tagFits t
  | .watchSet t _ => tagFits t
  | .watchRead t _ => tagFits t
  | .tableRead t _ _ _ _ => tagFits t
  | .siteResult t _ _ => tagFits t
  | .analyse t _ _ _ => tagFits t
  | .binConfig t _ _ _ => tagFits t
  | .binRelease t _ => tagFits t
  | .binStatus t _ => tagFits t
  | .accept _ => true
  | .decline _ => true
  | .acceptTimeout => true
  | .block payload => Machine.blockFits payload
  | .gateOpen limit => limit != 0#16
  | .gateClose => true
  | .endRecord => true
  | .halted => true
  | .resetDone => true
  | .feedMessageIllFormed bytes => (Machine.sourceInput bytes).isNone && messageEnds bytes
  | .haltTimeout => true
  | .feedResetTimeout => true
  | .tallyTimeoutDeciding => true
  | .tallyTimeoutDraining => true
  | .fail _ _ _ _ _ => true
  | .passTally _ _ _ _ => true
  | .endTally _ => true
  | .allocatorMove => true
  | .binDelivery _ => true
  | .binStaleExpiry _ => true
  | .startLineChange _ _ => true
  | .startCandidateExpiry _ => true
  | .alignMarkPlaced _ => true
  | .alignMarkMisplaced _ _ => true
  | .signalLoss _ => true
  | .reseekTimerExpiry _ => true
  | .headFrameDiscard _ bytes => (Machine.headInput bytes).isNone && headFrameEnds bytes
  | .serviceReply _ _ _ _ => true
  | .serviceTimeout _ => true
  | .supplyTrip _ => true
  | .bclkEdge _ _ => true

end Sys2Proof
end

