-- ==== Sys2Proof/Tests/Slice0.lean ====
section
/-!
SUPPORT. Tests: a refused ill-formed term for each check of WellFormed, one-step tests, and for every obligation with
hypotheses a witness (witness_<Name>) that meets the hypotheses of each clause.
-/

namespace Sys2Proof.Tests

open Sys2Proof Sys2Proof.Machine

/-! ## Small states -/

/-- The part after reset with head 0 changed. -/
def headed (f : HeadContext → HeadContext) : State := State.reset.onHead 0 f
/-- The part after reset with the Run Controller changed. -/
def ran (f : RunController → RunController) : State := State.reset.onRun f
/-- The part after reset with the port changed. -/
def ported (f : ControlPort → ControlPort) : State := State.reset.onPort f
/-- The part after reset with Bin Port 0 changed. -/
def binned (f : BinPort → BinPort) : State := State.reset.onBin 0 f

/-- Region 0 of the worked example of chapter 1: bank 3, rows 0 to 1023, columns 0 to 511, 2 spare rows, 1 spare column;
then a STRICT and an IGNORE region. -/
def plan : Plan :=
  { patternId := 0x01020304, planClass := 7, joinSet := 2, quota := 8, expiry := .drop, masks := 0,
    autoAnalyse := true, autoBudget := 1, outcomeMap := #v[1, 2, 5, 6, 7, 8, 9, 10], absentCode := 15,
    regions := [⟨3, 0, 1023, 0, 511, 2, 1, .analyse⟩, ⟨4, 0, 9, 0, 9, 0, 0, .strict⟩, ⟨5, 0, 9, 0, 9, 0, 0, .ignore⟩] }

/-- Slot 7 LOADED with the plan and used by `n` heads. -/
def loaded (n : Nat) : State := { State.reset with store := { State.reset.store with
  slots := upd State.reset.store.slots 7 fun _ => ⟨some plan, n⟩ } }

/-- What site 5 took when it entered run 7. -/
def entered : RunEntry := ⟨7, 7, [⟨2, 1⟩, ⟨0, 0⟩, ⟨0, 0⟩]⟩

/-- Head 0 with its link LOCKED and its supply ON. -/
def live (x : HeadState) (c : HeadContext) : HeadContext :=
  { c with state := x, link := .locked, supply := .on, enableSet := 0x20 }

/-- Run 7 of head 0 under slot 7 in a run state, with site 5 TESTING. -/
def running (x : RunState) : State :=
  (((loaded 1).onHead 0 (live .inRun)).onRun fun r =>
    { r with runNumber := 7, slot := some 7, group := 1, state := x, linkReady := true }).onSite 0 5 fun _ =>
      { SiteContext.blank .testing with entry := some entered }

/-- The same with the run timer running. -/
def timed (x : RunState) : State := (running x).onRun fun r => { r with timer := some 1000 }

/-- A gate level that holds site 5 of head 0 in its entry set. -/
def level : GateLevel := ⟨2, 0, Vector.replicate 4 0x20, Vector.replicate 4 0⟩

/-- The run deciding its level of depth 1. -/
def deciding : State := (timed .deciding).onGates fun g => { g with levels := [level] }

/-- The run held on a raise. -/
def heldOn (r : Raise) (ret : RunState) (s : State) : State :=
  s.onRun fun c => { c with state := .held, returnState := some ret, hold := some ⟨r, 0, 0, 0, false⟩ }

/-- A fail word of site 5 in the ANALYSE region. -/
def word : FailWord := ⟨0, 5, 3, 100, 20⟩

/-- The raise of QUOTA of that word in run `n`. -/
def quotaRaise (n : Half) : HandedRaise := word.raise .quota (some 0) false n

/-- The part with that raise waiting for the Run Controller. -/
def raising (n : Half) (s : State) : State := s.onCapture fun c => { c with raises := [quotaRaise n] }

/-- The part with WATCH and QUOTA of that word waiting, and QUOTA of another. -/
def twice (s : State) : State := s.onCapture fun c =>
  { c with raises := [word.raise .watch none false 7, word.raise .quota (some 0) true 7, quotaRaise 7] }

/-- The running part with some entries in the table. -/
def withEntries (t : FailTable) : State :=
  ((running .streaming).withTable t).onSite 0 5 fun c => { c with entriesHeld := t.length }

/-- An entry of site 5 in region 0. -/
def entry (k : EntryKey) (hits : Nat) : Entry := ⟨0, 5, 0, k, hits⟩

/-- A request frame of IDENTIFY in the window. -/
def waiting (tag : Byte) (stage : Stage) : WindowEntry := ⟨⟨tag, 1, []⟩, stage⟩

/-- A window of `n` taken requests with tags from 1 on. -/
def busyWindow (n : Nat) : List WindowEntry := (List.range n).map fun k => waiting (byteOf (k + 1)) .taken

/-- The command is a request at its owner. -/
def reaches (c : Instr) (s : State) : Bool :=
  match requestOf c with
  | some q => (s.port.offer q).isSome
  | none => false

theorem reaches_atOwner {c : Instr} {s : State} (h : reaches c s = true) : ∃ q p, s.AtOwner c q p := by
  unfold reaches at h
  split at h
  · rename_i q e
    obtain ⟨p, hp⟩ := Option.isSome_iff_exists.mp h
    exact ⟨q, p, e, hp⟩
  · exact absurd h (by simp)

/-! ## WellFormed refuses -/

theorem test_wf_tag : (Instr.identify 0).wellFormed = false ∧ (Instr.identify 1).wellFormed = true := by decide
theorem test_wf_frame : (Instr.controlFrameReceive []).wellFormed = false ∧
    (Instr.controlFrameReceive (List.replicate 1032 0)).wellFormed = false ∧
    (Instr.controlFrameReceive (List.replicate 1031 0)).wellFormed = true := by decide +kernel
theorem test_wf_discard : (Instr.controlByteDiscard 0xA5).wellFormed = false ∧
    (Instr.controlByteDiscard 0).wellFormed = true := by decide
/-- A body of `n` region descriptors whose other fields are in range. -/
def body (n : Nat) : PlanBody :=
  { slot := 7, patternId := 0x01020304, planClass := 7, joinSet := 15, quota := 4096, expiry := 1, masks := 127,
    autoAnalyse := 1, autoBudget := 65535, outcomeMap := Vector.replicate 8 15, absentCode := 15,
    regions := List.replicate n ⟨15, 65535, 65535, 4095, 4095, 15, 15, 2⟩ }

theorem test_wf_regions : (Instr.planLoad 1 (body 84)).wellFormed = false ∧
    (Instr.planLoad 1 (body 83)).wellFormed = true := by decide +kernel
theorem test_wf_block : (Instr.block []).wellFormed = false ∧
    (Instr.block (List.replicate 1025 0)).wellFormed = false ∧
    (Instr.block (List.replicate 1024 0)).wellFormed = true := by decide +kernel
theorem test_wf_gateOpen : (Instr.gateOpen 0).wellFormed = false ∧ (Instr.gateOpen 1).wellFormed = true := by decide
theorem test_wf_feed : (Instr.feedMessageIllFormed [0x15, 0, 0]).wellFormed = false ∧
    (Instr.feedMessageIllFormed [0x15, 0, 1]).wellFormed = false ∧
    (Instr.feedMessageIllFormed [0x15, 0, 1, 0]).wellFormed = true := by decide
theorem test_wf_headFrame : (Instr.headFrameDiscard 0 [0x13, 0, 0, 0x13]).wellFormed = false ∧
    (Instr.headFrameDiscard 0 [0x13, 0, 0]).wellFormed = false ∧
    (Instr.headFrameDiscard 0 [0x13, 4, 4, 0]).wellFormed = false ∧
    (Instr.headFrameDiscard 0 [0x13, 4, 4]).wellFormed = true ∧
    (Instr.headFrameDiscard 0 [0x13, 0, 0, 0x12]).wellFormed = true := by decide

/-! ## One step -/

theorem test_crc : crc16 [0x31, 0x32, 0x33, 0x34, 0x35, 0x36, 0x37, 0x38, 0x39] = 0x29B1 := by decide +kernel

/-- A frame of IDENTIFY with tag 1, byte by byte from 11.1: sync, length 2, kind 01h, tag 01h, CRC. -/
theorem test_identify_frame : controlFrame 0x01 0x01 [] = [0xA5, 0x00, 0x02, 0x01, 0x01, 0xC9, 0xB0] := by
  decide +kernel

/-- The state after a command. -/
def after (c : Instr) (s : State) : State :=
  match exec c s with
  | .next t => t
  | .fault _ => s
  | .refused _ => s

/-- Fail 1 of section 1.5 is learned as a CELL with hits 1. -/
theorem test_fail_learned : (after (word.command false) (withEntries [])).capture.table =
    [(0, entry (.cell 100 20) 1)] := by decide +kernel

/-- Fail 3 of section 1.5: ROW_LINE 100 takes the place of the cell with hits 2 + 1, and a spare row is spent. -/
theorem test_fail_row_promoted :
    let t := after (FailWord.command ⟨0, 5, 3, 100, 45⟩ false) (withEntries [(0, entry (.cell 100 20) 2)])
    t.capture.table = [(0, entry (.rowLine 100) 3)] ∧ (t.site 0 5).sparesOf 0 = ⟨1, 1⟩ ∧
      (t.site 0 5).entriesHeld = 1 := by decide +kernel

/-- Fails 6 to 8 of section 1.5, on the rows and columns left after fail 5: the column is promoted; a row without a cell
is promoted to a new entry; with no spare row left the site is marked no_repair and its entries are freed. -/
theorem test_fail_column_promoted_then_no_repair :
    let spend := fun (r c : Nat) (s : State) => s.onSite 0 5 fun x => { x with entry := some { entered with
      spares := [⟨r, c⟩] } }
    (after (FailWord.command ⟨0, 5, 3, 210, 45⟩ false)
      (spend 1 1 (withEntries [(0, entry (.rowLine 100) 4), (1, entry (.cell 200 45) 1)]))).capture.table =
        [(0, entry (.rowLine 100) 4), (1, entry (.colLine 45) 2)] ∧
    (after (FailWord.command ⟨0, 5, 3, 300, 60⟩ false)
      (spend 1 0 (withEntries [(0, entry (.rowLine 100) 4), (1, entry (.colLine 45) 2)]))).capture.table =
        [(0, entry (.rowLine 100) 4), (1, entry (.colLine 45) 2), (2, entry (.rowLine 300) 1)] ∧
    (after (FailWord.command ⟨0, 5, 3, 400, 61⟩ false)
      (spend 0 0 (withEntries [(0, entry (.rowLine 100) 4), (1, entry (.colLine 45) 2)]))).capture.table = [] ∧
    ((after (FailWord.command ⟨0, 5, 3, 400, 61⟩ false)
      (spend 0 0 (withEntries [(0, entry (.rowLine 100) 4)]))).site 0 5).noRepair = true := by decide +kernel

/-- The moves of section 4.8: CLOSURE takes COL 3, SEARCH pushes ROW 10 then COL 6, and the backtrack costs 4. -/
theorem test_moves :
    let cells : List (Half × Half) := [(60, 3), (65, 3), (10, 5), (20, 6), (20, 7), (30, 8)]
    let w0 : Work := ⟨0, .closure, [], ⟨1, 3⟩, [], []⟩
    let w1 : Work := ⟨0, .closure, [.col 3], ⟨1, 2⟩, [], []⟩
    let w2 : Work := ⟨0, .search, [.col 3], ⟨0, 2⟩, [⟨.row 10, false⟩], []⟩
    let w4 : Work := ⟨0, .search, [.col 3], ⟨0, 0⟩, [⟨.col 7, true⟩, ⟨.col 6, true⟩, ⟨.row 10, false⟩], []⟩
    nextMove (fun _ => cells) [⟨1, 3⟩] [] w0 = .move 1 w0 w1 ∧
    nextMove (fun _ => cells) [⟨1, 3⟩] [] w1 = .move 1 { w1 with phase := .search } w2 ∧
    nextMove (fun _ => cells) [⟨1, 3⟩] [] w4 = .move 4 w4 { w4 with stack := [⟨.col 5, true⟩], spares := ⟨1, 1⟩ } := by
  decide +kernel

/-- The bin frame of section 9.7. -/
theorem test_bin_frame :
    let done := fun o : SiteOutcome => SiteContext.resolve o none (SiteContext.blank .ended)
    let map := #v[1, 2, 5, 6, 7, 8, 9, 10]
    let sites := ((((Vector.replicate 32 (SiteContext.blank .off)).set 0 (done .pass)).set 1 (done .repaired)).set 2
      (done .strictFail)).set 3 (done .matchExpired)
    binFrame 2 { plan with outcomeMap := map, absentCode := 0 } 17 sites =
      [0x11, 0x02] ++ List.replicate 14 0 ++ [0x86, 0x21, 0xB4] := by decide +kernel

/-- Event 4 of section 8.9: the edge in STANDBY keeps the wake pending while a read holds the slot. -/
theorem test_pending_wake :
    let s := headed fun c => { c with
      state := .standby, link := .locked, wakeOnStart := true, autoQueue := true, recognised := .high,
      slot := some ⟨.headRead 12, .host 4, 18, 200⟩ }
    let t := after (.startLineChange 0 .low) (s.onLines 0 fun l => { l with start := .high })
    (t.head 0).pendingWake = some true ∧ (t.head 0).flags = HeadFlag.startSeen ∧
      t.port.notices = [⟨false, .headEvent 0 HeadFlag.startSeen .standby⟩] := by decide +kernel

/-- A tally that completes a decision with a site to spare: the matched site parks, the head is sent PARK and the source
DECIDE(REPEAT). -/
theorem test_decision_repeats :
    let s := deciding.onSite 0 0 fun _ => { SiteContext.blank .testing with entry := some entered }
    let s := s.onGates fun g => { g with levels := [{ level with entry := Vector.replicate 4 0x21 }] }
    let t := after (.passTally 0 1 1 0x20) s
    (t.site 0 5).state = .parked ∧ (t.site 0 0).state = .testing ∧ t.wire.toSource = [.decideRepeat] ∧
      t.wire.toHead[0] = [.park 1 1 0x20] ∧ t.run.state = .streaming := by decide +kernel

/-- An unmasked GATE_UNDERFLOW holds the run and pauses the source; RESUME applies its default and continues. -/
theorem test_hold_and_resume :
    let s := after .gateClose (running .streaming)
    let t := after (.resume 1) s
    s.run.state = .held ∧ s.wire.toSource = [.pause] ∧ t.run.state = .streaming ∧
      t.wire.toSource = [.pause, .decideExit, .continue] := by decide +kernel

/-- A new cell at the quota hands on a raise, which waits; taken once, it holds its run, is discarded in NONE and in
another run, and has its default applied in HALTING (R16, R128, R132, R133). -/
theorem test_raise_waits_for_the_run_controller :
    let full := (withEntries [(0, entry (.cell 3 3) 1)]).onSite 0 5 fun c => { c with entriesHeld := 8 }
    let handed := after (word.command true) full
    let idle := fun s : State => match step s with
      | .next t => t
      | _ => s
    (handed.capture.raises = [quotaRaise 7] ∧ handed.run = full.run) ∧
    ((idle handed).run.state = .held ∧ (idle handed).capture.raises = [] ∧ idle (idle handed) = idle handed) ∧
    (after (word.command false) full).run = (idle handed).run ∧
    (idle (handed.onRun fun r => { r with runNumber := 8 })).run.state = .streaming ∧
    (idle (handed.onRun fun r => { r with state := .none })).run.exceptions = 0 ∧
    ((idle (handed.onRun fun r => { r with state := .halting })).site 0 5).captureLost = true := by decide +kernel

/-- WATCH and QUOTA of one word that wait are taken together, also behind a RESUME: WATCH holds, QUOTA has its default
applied in that HELD and sets the more mark. The raise of a later word stays for the step after (R19, R133). -/
theorem test_watch_and_quota_of_a_word_are_taken_together :
    let full := ((withEntries [(0, entry (.cell 3 3) 1)]).onSite 0 5 fun c => { c with entriesHeld := 8 }).onCapture
      fun c => { c with watches := upd c.watches 1 fun _ => ⟨true, 0, none, 3, 100, none, true, false⟩ }
    let handed := after (FailWord.command ⟨0, 5, 3, 200, 20⟩ true) (after (word.command true) full)
    let idle := fun s : State => match step s with
      | .next t => t
      | _ => s
    let held := idle (after (.resume 1) handed)
    handed.capture.raises = [word.raise .watch none false 7, word.raise .quota (some 0) true 7,
      FailWord.raise ⟨0, 5, 3, 200, 20⟩ .quota (some 0) false 7] ∧
    held.run.hold = some ⟨(word.raise .watch none false 7).raise, 0, 0, 0, true⟩ ∧ held.run.exceptions = 0x048 ∧
    (held.site 0 5).captureLost = true ∧ held.capture.raises.length = 1 ∧ (idle held).capture.raises = [] := by
  decide +kernel

/-- A frame of length 2 that was broken off is completed by the bytes of the next request: A5h is its tag and 0002h its
CRC, which differs, and the rest is discarded in HUNT (R172, R173). -/
theorem test_request_in_a_broken_frame :
    let t := after (.identify 1) (ported fun p => { p with framer := .inFrame [0, 2, 1] })
    t.port.window = [] ∧ t.port.flags = PartFlag.frameError ∧ t.port.framer = .hunt := by decide +kernel

/-- After a length above 1027 no frame is taken until the next alignment mark (R187). -/
theorem test_overlong_frame_waits_for_a_mark :
    let s := after (.headFrameDiscard 0 [0x11, 4, 4]) (running .streaming)
    let t := after (.alignMarkPlaced 0) s
    (s.head 0).awaitMark = true ∧ after (word.command false) s = s ∧ (t.head 0).awaitMark = false ∧
      ((after (word.command false) t).site 0 5).failCount = 1 := by decide +kernel

/-- The window of section 10.8: a tag that is in the window is a clash, and a tag of 0 a refusal. -/
theorem test_tag_clash :
    let s := ported fun p => { p with window := busyWindow 3 }
    (after (.headAccess 3 0 0 12 0) s).port.flags = PartFlag.tagClash ∧
      (after (.status 0) s).port.replies = [⟨0x02, 0, .badRequest, [], false⟩] := by decide +kernel

/-- Bytes written out from 11.3 to 11.5: PARK of sites 0 and 5 at depth 1, pass 2; a RUN_HELD body of TALLY_LATE with
head 1 missing; START of run 7 with pattern 01020304h. -/
theorem test_sent_bytes :
    (HeadFrame.park 1 2 0x21).bytes = [0x04, 0, 7, 1, 0, 2, 0, 0, 0, 0x21, 0x21] ∧
    (Notice.runHeld 7 .deciding ⟨{ Raise.plain .tallyLate with missing := some 2 }, 0x010203, 1, 258, true⟩).bytes =
      [0, 7, 3, 5, 1, 0, 1, 2, 3, 1, 1, 2, 0, 0, 0, 0, 0, 0, 0, 2] ∧
    (SourceMessage.start 7 0x01020304).bytes = [0x01, 0, 6, 0, 7, 1, 2, 3, 4] := by decide +kernel

/-! ## Witnesses: the port -/

theorem witness_EveryCommandHasANextState : State.reset.pending = [] ∧ State.reset.capture.raises = [] ∧
    (raising 7 State.reset).pending = [] ∧ (raising 7 State.reset).capture.raises = quotaRaise 7 :: ([] ++ []) ∧
    (twice (running .streaming)).capture.raises = word.raise .watch none false 7 ::
      ([word.raise .quota (some 0) true 7] ++ [quotaRaise 7]) ∧
    (∀ x ∈ [word.raise .quota (some 0) true 7], x.follows = true) ∧ (quotaRaise 7).follows = false :=
  ⟨rfl, rfl, rfl, rfl, rfl, by decide, rfl⟩

theorem witness_RequestsReachTheirOwnersInOrder :
    let taken : ControlPort := { ControlPort.reset with window := busyWindow 7 }
    let clash := ported fun p => { p with window := busyWindow 1 }
    let broken := ported fun p => { p with framer := .inFrame [0] }
    (requestOf (.identify 1) = some ⟨1, 1, []⟩ ∧ clash.port.offer ⟨1, 1, []⟩ = none ∧ clash.port.framer = .hunt ∧
      broken.port.offer ⟨1, 1, []⟩ = none ∧ broken.port.framer = .inFrame [0]) ∧
    (PortLaws { taken with window := busyWindow 7 ++ [waiting 8 .accepted] } ∧
      ∀ e ∈ busyWindow 7, e.stage = .taken) ∧
    ((∀ e ∈ taken.window, e.stage = .taken) ∧ taken.window.length < 8 ∧
      (∀ e ∈ taken.window, e.request.tag ≠ 8) ∧ allowedSize 1 ([] : List Byte).length = true) ∧
    ((∀ e ∈ busyWindow 1, e.stage = .taken) ∧ (waiting 2 .handedOn).stage ≠ .taken ∧
      (waiting 2 .handedOn).request ≠ ⟨3, 1, []⟩) :=
  ⟨by decide, ⟨⟨by decide, by decide, by decide, by decide⟩, by decide⟩, by decide, by decide⟩

theorem witness_RequestsReachTheirOwnersInOrder_headField :
    requestOf (.headStatus 1 4) = some ⟨1, 0x29, [4]⟩ ∧ reaches (.headStatus 1 4) State.reset = true ∧
      headField (.headStatus 1 4) = some 4 ∧ 3 < (4 : Byte).toNat := by decide

theorem witness_ResetsLeaveThePowerOnState : reaches (.partReset 255) (running .held) = true := by decide

/-- A PART_RESET between a taken and an accepted request, with a frame being sent and without. -/
theorem witness_PartResetKeepsWhatWasAcceptedAfterIt :
    let q : Request := ⟨9, 5, []⟩
    let s := ported fun p => { p with window := [waiting 1 .taken, ⟨q, .handedOn⟩, waiting 2 .accepted] }
    let p := s.port.markTaken 9
    s.AtOwner (.partReset 9) q p ∧ PortLaws p ∧ p.window = [waiting 1 .taken] ++ ⟨q, .taken⟩ :: [waiting 2 .accepted] :=
  ⟨⟨rfl, by decide⟩, ⟨by decide, by decide, by decide, by decide⟩, by decide⟩

theorem witness_BytesAndFramesTheFramerDiscards :
    (State.reset.port.framer = .hunt ∧ (0 : Byte) ≠ 0xA5#8) ∧
    ((ported fun p => { p with framer := .synced }).port.framer = .synced) ∧
    ((half 0 1).toNat < 2 ∧ 1026 < (half 4 3).toNat) ∧
    ([0, 0] ≠ be16 (crc16 (be16OfNat (([] : List Byte).length + 2) ++ 1 :: 1 :: []))) := by decide +kernel

theorem witness_GoodFramesReachTheEntryChecks :
    State.reset.port.framer = .hunt ∧ (ported fun p => { p with framer := .synced }).port.framer = .synced ∧
      (List.replicate 1024 (0 : Byte)).length ≤ 1024 := by decide +kernel

theorem witness_EntryChecksDecideInOrder :
    let p := fun n => { ControlPort.reset with window := busyWindow n }
    let meets := fun (p : ControlPort) (q : Request) (good full held : Bool) =>
      (good = true ↔ allowedSize q.kind q.body.length = true) ∧ (full = true ↔ 8 ≤ p.window.length) ∧
        (held = true ↔ ∃ e ∈ p.window, e.request.tag = q.tag)
    meets (p 8) ⟨0, 1, []⟩ true true false ∧ meets (p 8) ⟨8, 1, []⟩ true true true ∧
      meets (p 8) ⟨9, 1, []⟩ true true false ∧ meets (p 7) ⟨8, 1, [0]⟩ false false false ∧
      meets (p 7) ⟨8, 1, []⟩ true false false := by decide

theorem witness_RequestsAreHandedOnAndReplied :
    let w := [waiting 1 .taken] ++ waiting 2 .accepted :: [waiting 3 .accepted]
    let sent := fun (f : HostFrame) (l : Bool) => ported fun p => { p with sending := some ⟨f, l⟩ }
    ((ported fun p => { p with window := w }).port.window = w ∧ (∀ e ∈ [waiting 1 .taken], e.stage = .taken) ∧
      ∀ e ∈ [waiting 3 .accepted], e.stage = .accepted) ∧
    (∃ e ∈ [waiting 1 .handedOn], e.stage = .handedOn) ∧ State.reset.port.sending = none ∧
    (sent (.reply ⟨1, 1, .ok, [], true⟩) true).port.sending = some ⟨.reply ⟨1, 1, .ok, [], true⟩, true⟩ ∧
    (sent (.reply ⟨1, 0, .badRequest, [], false⟩) true).port.sending =
      some ⟨.reply ⟨1, 0, .badRequest, [], false⟩, true⟩ ∧
    (sent (.notice ⟨true, .runStarted 1 0 1⟩) true).port.sending = some ⟨.notice ⟨true, .runStarted 1 0 1⟩, true⟩ ∧
    (sent (.reply ⟨1, 1, .ok, [], true⟩) false).port.sending = some ⟨.reply ⟨1, 1, .ok, [], true⟩, false⟩ := by decide

theorem witness_TheTransmitterAndTheNoticeQueue :
    let r : Reply := ⟨1, 1, .ok, [], true⟩
    let n : QueuedNotice := ⟨false, .runStarted 1 0 1⟩
    let p : ControlPort := { ControlPort.reset with replies := [r], notices := [n] }
    (∃ x, ({ p with sending := some ⟨.reply r, true⟩ } : ControlPort).sending = some x) ∧ p.sending = none ∧
      (ControlPort.reset.replies = [] ∧ ControlPort.reset.notices = []) ∧
      ({ p with lastSent := some .notice } : ControlPort).lastSent = some .notice ∧
      ({ p with lastSent := some .reply } : ControlPort).lastSent = some .reply ∧ p.lastSent = none ∧
      (List.replicate 31 n).length < 32 ∧ 32 ≤ (List.replicate 32 n).length := by
  refine ⟨⟨_, rfl⟩, ?_⟩; decide

theorem witness_StatusRequestsAnswerTheirRecords :
    reaches (.identify 1) State.reset = true ∧ reaches (.status 255) (running .held) = true ∧
      reaches (.headStatus 1 (byteOf (3 : HeadId).val)) State.reset = true ∧
      reaches (.runStatus 1) (running .held) = true := by decide

theorem witness_BinRequestsConfigureReleaseAndRead :
    let waits := headed fun c => { c with state := .binWait }
    (reaches (.binConfig 1 0 4 0) State.reset = true ∧ 3 < (4 : Byte).toNat) ∧
    (reaches (.binConfig 1 0 3 255) waits = true ∧ (waits.head 0).state = .binWait) ∧
    (reaches (.binConfig 1 0 3 255) State.reset = true ∧ (State.reset.head 0).state ≠ .binWait) ∧
    (reaches (.binRelease 1 0) State.reset = true ∧ reaches (.binRelease 1 0) waits = true) ∧
    (reaches (.binStatus 1 0) State.reset = true ∧ (State.reset.bin 0).frame = none ∧
      ((binned fun b => { b with frame := some (List.replicate 19 0) }).bin 0).frame = some (List.replicate 19 0)) ∧
    reaches (.binStatus 1 4) State.reset = true := by decide

theorem witness_WatchRequestsSetAndReadTheEntry :
    WatchBody.InRange ⟨3, 1, 3, 31, 15, 65535, 4095, 1⟩ ∧ WatchBody.InRange ⟨0, 0, 0, 255, 0, 0, 65535, 0⟩ ∧
      ¬ WatchBody.InRange ⟨4, 1, 3, 31, 15, 65535, 4095, 1⟩ ∧ ¬ WatchBody.InRange ⟨3, 1, 3, 31, 15, 65535, 4096, 1⟩ ∧
      reaches (.watchSet 1 ⟨3, 1, 3, 31, 15, 65535, 4095, 1⟩) State.reset = true ∧
      reaches (.watchRead 1 (byteOf (3 : Fin 4).val)) State.reset = true ∧
      (reaches (.watchRead 1 4) State.reset = true ∧ 3 < (4 : Byte).toNat) :=
  ⟨by constructor <;> decide, by constructor <;> decide, fun h => absurd h.index (by decide),
    fun h => absurd h.column (by decide), by decide⟩

theorem witness_TableReadAndSiteResultAnswers :
    let s := (running .streaming).onSite 0 31 fun c => { c with entry := some { entered with spares := [⟨15, 15⟩] } }
    (reaches (.tableRead 1 4 32 4096 97) s = true ∧ 3 < (4 : Byte).toNat ∧ 31 < (32 : Byte).toNat ∧
      4095 < (4096 : Half).toNat ∧ 96 < (97 : Byte).toNat ∧ (0 : Byte).toNat = 0) ∧
    (reaches (.tableRead 1 3 31 4095 96) s = true ∧ (4095 : Half).toNat ≤ 4095 ∧ (96 : Byte).toNat ≤ 96) ∧
    (reaches (.siteResult 1 0 31) s = true ∧ (s.site 0 31).entry = some { entered with spares := [⟨15, 15⟩] }) ∧
    (s.site 3 31).entry = none ∧ reaches (.siteResult 1 4 0) s = true := by decide

theorem witness_ConfigureAndEventsRead :
    let b : ConfigureBody := ⟨1, #v[0, 1, 2, 3, 3, 2, 1, 0], 1, 0, 1⟩
    let m : Vector (Fin 4) 8 := #v[0, 1, 2, 3, 3, 2, 1, 0]
    (reaches (.configure 1 b) State.reset = true ∧ b.tallyTimeout ≠ 0 ∧
      (∀ i : Fin 8, b.classMap[i].toNat = (m[i]).val) ∧ b.runNotices.toNat ≤ 1 ∧ b.analysisNotices.toNat ≤ 1 ∧
      b.watchNotices.toNat ≤ 1) ∧
    (({ b with tallyTimeout := 0 } : ConfigureBody).tallyTimeout = 0 ∧
      (∃ i : Fin 8, 3 < ({ b with classMap := Vector.replicate 8 4 } : ConfigureBody).classMap[i].toNat) ∧
      1 < (2 : Byte).toNat) ∧
    reaches (.eventsRead 1 ⟨255, Vector.replicate 4 65535⟩) State.reset = true := by decide

/-! ## Witnesses: plans and heads -/

theorem body_inRange : PlanBody.InRange (body 8) := by
  constructor <;> decide

theorem witness_PlanRequestsLoadFreeAndRead :
    (reaches (.planLoad 1 { body 1 with slot := 8 }) State.reset = true ∧ 7 < (8 : Byte).toNat) ∧
    (reaches (.planLoad 1 (body 1)) (loaded 1) = true ∧ (loaded 1).useCount 7 ≠ 0) ∧
    (reaches (.planLoad 1 (body 9)) (loaded 0) = true ∧ (loaded 0).useCount 7 = 0 ∧ ¬ PlanBody.InRange (body 9)) ∧
    (reaches (.planLoad 1 (body 8)) (loaded 0) = true ∧ PlanBody.InRange (body 8)) ∧
    (reaches (.planFree 1 8) State.reset = true ∧ reaches (.planFree 1 7) (loaded 1) = true ∧
      0 < (loaded 1).useCount 7) ∧
    (reaches (.planFree 1 7) (loaded 0) = true ∧ State.reset.planAt 7 = none) ∧
    (reaches (.planRead 1 8) State.reset = true ∧ reaches (.planRead 1 7) State.reset = true ∧
      reaches (.planRead 1 7) (loaded 1) = true ∧ (loaded 1).planAt 7 = some plan) :=
  ⟨by decide, by decide +kernel, ⟨by decide +kernel, by decide, fun h => absurd h.regionCount (by decide)⟩,
    ⟨by decide +kernel, body_inRange⟩, by decide, by decide, by decide⟩

theorem witness_PlanReadAnswersTheLoadedBody :
    let t := after (.planLoad 1 (body 8)) State.reset
    reaches (.planLoad 1 (body 8)) State.reset = true ∧ (body 8).slot = byteOf (7 : SlotId).val ∧
      State.reset.useCount 7 = 0 ∧ PlanBody.InRange (body 8) ∧ exec (.planLoad 1 (body 8)) State.reset = .next t ∧
      reaches (.planRead 2 (body 8).slot) t = true :=
  ⟨by decide +kernel, by decide, by decide, body_inRange, rfl, by decide +kernel⟩

theorem witness_SiteEnableStartConfigAndHeadEvents :
    let b : StartBody := ⟨0, 1, 3, 1, 1, 7, 1⟩
    let sleeping := headed fun c => { c with slot := some ⟨.headSleep, .host 2, 1, 500⟩ }
    (reaches (.siteEnable 1 4 0) State.reset = true ∧ reaches (.siteEnable 1 0 0) State.reset = true ∧
      (State.reset.head 0).state = .offline ∧ ((headed (live .standby)).head 0).state = .standby ∧
      ((headed (live .idle)).head 0).state = .idle) ∧
    (((headed (live .waking)).head 0).state = .waking ∧ ((headed (live .queued)).head 0).state = .queued ∧
      ((headed (live .inRun)).head 0).state = .inRun ∧ ((headed (live .analysis)).head 0).state = .analysis ∧
      ((headed (live .binWait)).head 0).state = .binWait) ∧
    (reaches (.startConfig 1 b) State.reset = true ∧ b.head = byteOf (0 : HeadId).val ∧
      b.polarity = Polarity.rising.code ∧ b.width = RejectWidth.ms4.code ∧ b.wake = boolByte true ∧
      b.autoQueue = boolByte true ∧ b.notice = boolByte true ∧ b.defaultSlot = byteOf (7 : SlotId).val) ∧
    (((headed (live .standby)).head 0).state = .standby ∧
      (∃ sv, (sleeping.head 0).slot = some sv ∧ sv.op = .headSleep) ∧
      RejectWidth.ms4 ≠ .off) ∧
    (reaches (.startConfig 1 ⟨4, 0, 0, 0, 0, 0, 0⟩) State.reset = true ∧ 1 < (2 : Byte).toNat ∧
      7 < (8 : Byte).toNat ∧ (8 : Byte) ≠ 0xFF#8) ∧
    (reaches (.headEvents 1 0 1023) State.reset = true ∧ (1023 : Half).toNat < 1024 ∧ 1024 ≤ (1024 : Half).toNat) := by
  refine ⟨by decide, by decide, by decide, ⟨by decide, ⟨_, rfl, rfl⟩, by decide⟩, by decide, by decide⟩

theorem witness_HeadLinkAndTheLossOfALink :
    let linked := fun l : LinkState => headed fun c => { c with link := l }
    let queued := (headed (live .queued)).onArbiter fun a => { a with queue := [⟨0, 7, 7, 3⟩] }
    (∀ on los m, reaches (.headLink 1 0 (boolByte on) (boolByte los) (AlignMode.code m)) State.reset = true) ∧
    (reaches (.headLink 1 4 2 2 2) State.reset = true ∧ 3 < (4 : Byte).toNat ∧ 1 < (2 : Byte).toNat) ∧
    (∀ l, ((linked l).head 0).link = l) ∧ (∀ x, ((headed (live x)).head 0).state = x) ∧
    queued.arbiter.queue.find? (fun e => e.head == 0) = some ⟨0, 7, 7, 3⟩ :=
  ⟨fun on los m => by cases on <;> cases los <;> cases m <;> decide, by decide, fun l => by cases l <;> decide,
    fun x => by cases x <;> decide, by decide⟩

theorem witness_MarksSignalLossReseekAndLinkShift :
    let at_ := fun (l : LinkState) (n : Nat) (m : AlignMode) (los : Bool) => headed fun c =>
      { c with link := l, markRun := n, missRun := n, alignMode := m, losDetect := los, reseek := true, aligner := 15 }
    (((at_ .seeking 2 .mark false).head 0).link = .seeking ∧ ((at_ .seeking 2 .mark false).head 0).markRun < 3) ∧
    (3 ≤ ((at_ .seeking 3 .manual false).head 0).markRun ∧
      ((at_ .seeking 3 .manual false).head 0).alignMode = .manual) ∧
    (((at_ .locked 2 .mark true).head 0).link = .locked ∧ ((at_ .locked 2 .mark true).head 0).missRun < 3 ∧
      ((at_ .locked 2 .mark true).head 0).losDetect = true ∧ 3 ≤ ((at_ .locked 3 .mark false).head 0).missRun) ∧
    (((at_ .lost 0 .mark false).head 0).link = .lost ∧ ((at_ .lost 0 .mark false).head 0).reseek = true) ∧
    ((0 : Fin 16) ≠ ((at_ .seeking 0 .mark false).head 0).aligner) ∧ (State.reset.head 0).link = .off ∧
    (reaches (.linkShift 1 0) (at_ .seeking 0 .manual false) = true) := by decide

theorem witness_SupplySetIsCheckedInOrder :
    let s := fun (x : SupplyState) (busy : Bool) => headed fun c =>
      { live .idle c with supply := x, slot := if busy then some ⟨.headRead 1, .internal, 1, 200⟩ else none }
    (∀ on, reaches (.supplySet 1 0 (boolByte on)) State.reset = true) ∧ (State.reset.head 0).link ≠ .locked ∧
    (reaches (.supplySet 1 4 2) State.reset = true ∧ 3 < (4 : Byte).toNat ∧ 1 < (2 : Byte).toNat) ∧
    (((s .fault true).head 0).link = .locked ∧ ((s .fault true).head 0).state = .idle ∧
      ((s .fault true).head 0).supply = .fault) ∧
    ((s .off true).head 0).slot.isSome ∧ (((s .on false).head 0).slot = none ∧ ((s .on false).head 0).supply = .on) ∧
    ((s .off false).head 0).supply ≠ .on ∧ ((headed (live .inRun)).head 0).state = .inRun :=
  ⟨fun on => by cases on <;> decide, by decide, by decide, by decide, by decide, by decide, by decide, by decide⟩

theorem witness_HeadAccessStandbyAndWakeIssueServices :
    let s := fun (x : HeadState) (busy w : Bool) => headed fun c =>
      { c with state := x, link := .locked, wakeOnStart := w, width := .ms4,
               slot := if busy then some ⟨.headRead 1, .internal, 1, 200⟩ else none }
    (∀ wr : Bool, reaches (.headAccess 1 0 (boolByte wr) 255 65535) State.reset = true) ∧
    (reaches (.headAccess 1 4 2 0 0) State.reset = true ∧ 3 < (4 : Byte).toNat ∧ 1 < (2 : Byte).toNat) ∧
    (State.reset.head 0).link ≠ .locked ∧
    (∀ busy w, ((s .idle busy w).head 0).link = .locked ∧ ((s .idle busy w).head 0).slot.isSome = busy ∧
      ((s .idle busy w).head 0).state = .idle ∧ ((s .idle busy w).head 0).supply = .off ∧
      ((s .idle busy w).head 0).wakeOnStart = w ∧ ((s .idle busy w).head 0).width ≠ .off) ∧
    reaches (.headStandby 1 0) State.reset = true ∧ (State.reset.head 0).state ≠ .idle ∧
    reaches (.headWake 1 0) State.reset = true ∧
    (∀ busy, ((s .standby busy false).head 0).state = .standby ∧ ((s .standby busy false).head 0).slot.isSome = busy) :=
  ⟨fun wr => by cases wr <;> decide, by decide, by decide, fun busy w => by cases busy <;> cases w <;> decide,
    by decide, by decide, by decide, fun busy => by cases busy <;> decide⟩

theorem witness_ServicesEndAsTheirOperationGives :
    let s := fun (x : HeadState) (op : ServiceOp) (o : ServiceOrigin) (w : Option Bool) => (loaded 0).onHead 0 fun c =>
      { live x c with slot := some ⟨op, o, 17, 500⟩, defaultSlot := some 7, pendingWake := w }
    (∀ x op o w, ((s x op o w).head 0).link = .locked ∧ ((s x op o w).head 0).awaitMark = false ∧
      ((s x op o w).head 0).slot = some ⟨op, o, 17, 500⟩ ∧ ((s x op o w).head 0).pendingWake = w ∧
      ((s x op o w).head 0).state = x) ∧
    (((s .waking (.headWake true) .internal none).head 0).defaultSlot = some 7 ∧
      (s .waking (.headWake true) .internal none).planAt 7 = some plan ∧ State.reset.planAt 7 = none ∧
      (State.reset.head 0).defaultSlot = none ∧ ServiceResult.trip ≠ .refused) ∧ (16 : Byte) ≠ 17 :=
  ⟨fun _ _ _ _ => ⟨rfl, rfl, rfl, rfl, rfl⟩, by decide, by decide⟩

theorem witness_SupplyTripAndIllFormedHeadFrames :
    let awaits := headed fun c => { live .idle c with awaitMark := true }
    (((running .streaming).head 0).link = .locked ∧ ((running .streaming).head 0).awaitMark = false ∧
      ((running .streaming).head 0).supply = .on ∧ ((running .streaming).head 0).state = .inRun ∧
      ((headed (live .idle)).head 0).state ≠ .inRun ∧ (State.reset.head 0).link ≠ .locked ∧
      (awaits.head 0).awaitMark = true) ∧
    ((0x16#8 ≠ 0x11#8 ∧ 0x16#8 ≠ 0x12#8 ∧ 0x16#8 ≠ 0x13#8 ∧ 0x16#8 ≠ 0x14#8 ∧ 0x16#8 ≠ 0x15#8) ∧
      (half 4 3).toNat ≤ 1027 ∧ 1027 < (half 4 4).toNat ∧ ([0x13, 0] : List Byte).length < 3 ∧
      (half 0 1).toNat ≠ ([] : List Byte).length ∧ (0 : Byte) ≠ xorBytes (0x13 :: 0 :: 0 :: []) ∧
      (∃ r, ([1, 3, 0, 0] : List Byte)[1]? = some r ∧ 2 < r.toNat)) :=
  ⟨by decide, by decide, by decide, by decide, by decide, by decide, by decide, ⟨3, by decide, by decide⟩⟩

theorem witness_TheStartLineIsFilteredAndTaken :
    let s := fun (x : HeadState) (busy : Bool) => (loaded 0).onHead 0 fun c =>
      { live x c with recognised := .high, width := .off, wakeOnStart := true, autoQueue := true, defaultSlot := some 7,
                      candidate := some ⟨.low, .ms1⟩,
                      slot := if busy then some ⟨.headRead 1, .internal, 1, 200⟩ else none }
    let high := fun s : State => s.onLines 0 fun l => { l with start := .high }
    ((State.reset.lines[0]).start = .low ∧ (State.reset.lines[0]).start ≠ .high ∧
      (State.reset.head 0).recognised ≠ .high ∧ (State.reset.head 0).width = .off ∧
      State.edgeTo .high ≠ (State.reset.head 0).polarity ∧ (State.reset.head 0).candidate = none ∧
      ((headed fun c => { c with recognised := .high }).head 0).recognised = .high ∧
      RejectWidth.us250 ≠ .off) ∧
    (∀ x busy, ((s x busy).head 0).recognised ≠ .low ∧ State.edgeTo .low = ((s x busy).head 0).polarity ∧
      ((high (s x busy)).lines[0]).start ≠ .low ∧ ((s x busy).head 0).width = .off ∧
      ((s x busy).head 0).candidate = some ⟨.low, .ms1⟩ ∧ ((s x busy).head 0).state = x ∧
      ((s x busy).head 0).slot.isSome = busy ∧ ((s x busy).head 0).wakeOnStart = true ∧
      ((s x busy).head 0).autoQueue = true ∧ ((s x busy).head 0).defaultSlot = some 7 ∧
      (s x busy).planAt 7 = some plan) ∧ (State.reset.head 0).defaultSlot = none ∧ State.reset.planAt 7 = none :=
  ⟨by decide, fun x busy => by cases x <;> cases busy <;> decide, by decide, by decide⟩

theorem witness_HeadResetBringsTheHeadToRest :
    reaches (.headReset 1 0) (running .streaming) = true ∧ ((running .streaming).head 0).state = .inRun ∧
      ((running .streaming).head 0).supply ≠ .off ∧ ((running .streaming).head 0).link = .locked ∧
      reaches (.headReset 1 0) State.reset = true ∧ (State.reset.head 0).supply = .off ∧
      ((headed fun c => { c with link := .lost }).head 0).link = .lost := by decide

/-! ## Witnesses: the run -/

theorem witness_HeadsJoinAndLeaveTheQueue :
    let idle := (loaded 0).onHead 0 (live .idle)
    let queued := (headed (live .queued)).onArbiter fun a => { a with queue := [⟨0, 7, 7, 3⟩] }
    (reaches (.runRequest 1 0 8) idle = true ∧ 7 < (8 : Byte).toNat ∧ reaches (.runRequest 1 0 7) idle = true ∧
      (idle.head 0).state = .idle ∧ idle.planAt 7 = some plan ∧ State.reset.planAt 7 = none ∧
      (State.reset.head 0).state ≠ .idle) ∧
    (reaches (.runCancel 1 0) queued = true ∧ (queued.head 0).state = .queued ∧
      queued.arbiter.queue.find? (fun e => e.head == 0) = some ⟨0, 7, 7, 3⟩) ∧
    (reaches (.arbiterSet 1 1) State.reset = true ∧ (1 : Byte) = boolByte true ∧ 1 < (2 : Byte).toNat) := by
  decide

theorem witness_TheArbiterGrantsTheHighestLevel :
    let s := ((loaded 1).onHead 0 (live .queued)).onArbiter fun a => { a with queue := [⟨1, 7, 7, 3⟩, ⟨0, 7, 7, 3⟩] }
    let s := s.onRun fun r => { r with linkReady := true }
    (s.arbiter.enabled = true ∧ s.run.state = .none ∧ s.run.linkReady = true ∧
      s.arbiter.queue = [⟨1, 7, 7, 3⟩] ++ ⟨0, 7, 7, 3⟩ :: [] ∧ s.eligible ⟨0, 7, 7, 3⟩ = true ∧
      (∀ e ∈ ([⟨1, 7, 7, 3⟩] : List QueueEntry), s.eligible e = true → e.level < (3 : Fin 4)) ∧
      s.planAt 7 = some plan) ∧ State.reset.run.linkReady = false := by decide

theorem witness_ARunStartsOrEndsWithoutStarting :
    let s := timed .starting
    (s.run.resetPending = none ∧ s.run.state = .starting ∧ s.run.runNumber = 7 ∧ s.run.slot = some 7 ∧
      s.planAt 7 = some plan ∧ s.run.timer.isSome) ∧
    (s.run.runNumber ≠ 8 ∧ (running .streaming).run.state ≠ .starting) ∧
    (ran fun r => { r with resetPending := some 1 }).run.resetPending.isSome := by decide

theorem witness_TheFeedOutsideStreaming :
    let full := (running .held).onRun fun r => { r with buffer := List.replicate 16 .gateClose }
    (∀ x, (running x).run.state = x ∧ (running x).run.resetPending = none) ∧
    ((running .held).run.buffer.length < 16 ∧ 16 ≤ full.run.buffer.length) ∧
    (1 ≤ (List.replicate 1024 (0 : Byte)).length ∧ (List.replicate 1024 (0 : Byte)).length ≤ 1024 ∧
      (65535 : Half) ≠ 0 ∧ 1024 < (List.replicate 1025 (0 : Byte)).length) ∧
    ((0x10 : Byte).toNat < 0x11 ∧ 0x18 < (0x19 : Byte).toNat ∧ ([0x15, 0] : List Byte).length < 3 ∧
      ([1] : List Byte).length ≠ (half 0 0).toNat) ∧
    (([0x15, 0, 1, 0] : List Byte) = 0x15 :: 0 :: 1 :: [0] ∧ 0x15 ≤ (0x15 : Byte).toNat ∧ ([0] : List Byte) ≠ [] ∧
      ([0] : List Byte).length ≠ 2 ∧ ([] : List Byte).length ≠ 1) ∧
    (ran fun r => { r with resetPending := some 1 }).run.resetPending.isSome :=
  ⟨fun x => by cases x <;> decide, by decide, by decide +kernel, by decide, by decide, by decide⟩

theorem witness_RecordsTakenInStreaming :
    let gates := fun (n p : Nat) => (running .streaming).onGates fun g =>
      { g with levels := List.replicate n level, phantom := p }
    (∀ n p, (gates n p).run.resetPending = none ∧ (gates n p).run.state = .streaming) ∧
    (gates 3 0).gates.levels.length < 4 ∧ 4 ≤ (gates 4 0).gates.levels.length ∧ 0 < (gates 4 65535).gates.phantom ∧
    ((gates 1 0).gates.phantom = 0 ∧ (gates 1 0).gates.levels ≠ [] ∧ (gates 0 0).gates.levels = []) :=
  ⟨fun _ _ => ⟨rfl, rfl⟩, by decide, by decide, by decide, by decide⟩

/-- Two heads in a group, so that a drop leaves one of them. -/
def pair (x : RunState) : State :=
  ((running x).onHead 1 (live .inRun)).onRun fun r => { r with group := 3, tallied := 2 }

theorem witness_AbortsDropsAndMasksByRequest :
    (∀ x, reaches (.runAbort 1) (running x) = true ∧ (running x).run.state = x) ∧
    (reaches (.runDropHead 1 0) State.reset = true ∧ (State.reset.head 0).state ≠ .inRun) ∧
    (reaches (.runDropHead 1 0) (pair .streaming) = true ∧ ((pair .streaming).head 0).state = .inRun) ∧
    (reaches (.runSetMask 1 128) (running .held) = true ∧ 127 < (128 : Byte).toNat ∧ (127 : Byte).toNat ≤ 127 ∧
      State.reset.run.state = .none ∧ (running .held).run.state ≠ .none) :=
  ⟨fun x => by cases x <;> decide, by decide, by decide, by decide⟩

theorem witness_RunsEnd :
    (running .draining).run.slot = some 7 ∧ (running .draining).planAt 7 = some plan ∧
      (timed .halting).run.state = .halting ∧ (timed .halting).run.resetPending = none ∧
      (timed .halting).run.timer.isSome ∧ (running .streaming).run.state ≠ .halting ∧
      (ran fun r => { r with resetPending := some 1 }).run.resetPending.isSome := by decide

theorem witness_ADropRemovesTheHead :
    let tallied := (pair .deciding).onGates fun g => { g with collected := #v[none, some 0, none, none] }
    let left := fun s : State => s.removeHead 0 .host
    ((running .draining).run.slot = some 7 ∧ (running .draining).planAt 7 = some plan) ∧
    ((running .draining).inGroup 1 = false ∧ (running .draining).inGroup 0 = true) ∧
    (left (running .streaming)).run.group = 0 ∧
    ((left tallied).run.group ≠ 0 ∧ (left tallied).run.state = .deciding ∧ (left tallied).allCollected = true) ∧
    ((left (pair .draining)).run.state = .draining ∧ (left (pair .draining)).allTallied = true) ∧
    ((left (pair .streaming)).run.group ≠ 0 ∧ (left (pair .streaming)).run.state = .streaming) := by decide +kernel

theorem witness_RaisesByMaskAndRunState :
    (∀ x, (running x).run.state = x ∧ (running x).run.runNumber = 7) ∧ (7 : Half) ≠ 6 ∧
      (running .streaming).run.masks.getLsbD Cause.watch.bit = false ∧
      ((running .streaming).onRun fun r => { r with masks := 0x7F }).run.masks.getLsbD Cause.gateOverflow.bit = true ∧
      (running .streaming).capture.raises = [] ∧
      (raising 7 (running .streaming)).capture.raises = quotaRaise 7 :: [] ∧
      (∀ x, (twice (running x)).pending = [] ∧ (twice (running x)).capture.raises =
        word.raise .watch none false 7 :: word.raise .quota (some 0) true 7 :: [quotaRaise 7]) ∧
      (word.raise .watch none false 7).cause = .watch ∧ (word.raise .quota (some 0) true 7).cause ≠ .watch ∧
      (quotaRaise 7).follows = false :=
  ⟨fun _ => ⟨rfl, rfl⟩, by decide, by decide, by decide, rfl, rfl, fun _ => ⟨rfl, rfl⟩, by decide, by decide, rfl⟩

theorem witness_HoldsAndDefaultActions :
    (∀ c, (Raise.plain c).cause = c) ∧ (word.raise .quota (some 0) false 7).raise.head = some 0 ∧
      (word.raise .tableFull (some 0) true 7).raise.site = some 5 := ⟨fun _ => rfl, rfl, rfl⟩

theorem witness_ResumeAndItsReplay :
    let held := heldOn (Raise.plain .gateUnderflow) .streaming (running .streaming)
    (reaches (.resume 1) (running .streaming) = true ∧ (running .streaming).run.state ≠ .held) ∧
    (reaches (.resume 1) held = true ∧ held.run.state = .held ∧
      held.run.hold = some ⟨Raise.plain .gateUnderflow, 0, 0, 0, false⟩ ∧ held.run.returnState = some .streaming) ∧
    (∀ x, (running x).run.state = x) := ⟨by decide, by decide, fun _ => rfl⟩

theorem witness_FeedResetAndItsEnds :
    let pending := ran fun r => { r with resetPending := some 3, timer := some 5000 }
    reaches (.feedReset 1) (running .streaming) = true ∧ (running .streaming).run.state ≠ .none ∧
      reaches (.feedReset 1) State.reset = true ∧ State.reset.run.state = .none ∧
      State.reset.run.resetPending = none ∧ pending.run.resetPending = some 3 ∧ pending.run.timer.isSome := by decide

theorem witness_TalliesAndTheirTimeouts :
    let recorded := fun s : State => s.onGates fun g => { g with collected := upd g.collected 0 fun _ => some 0x20 }
    let two := deciding.onRun fun r => { r with group := 3 }
    let held := heldOn (Raise.plain .watch) .deciding deciding
    let draining := timed .draining
    ((deciding.head 0).link = .locked ∧ (deciding.head 0).awaitMark = false ∧ deciding.run.state = .deciding ∧
      deciding.inGroup 0 = true ∧
      (1 : Half).toNat = deciding.gates.levels.length ∧ deciding.gates.levels = level :: [] ∧
      (1 : Half).toNat = level.passCount + 1 ∧ deciding.gates.collected[0] = none) ∧
    ((recorded deciding).allCollected = true ∧ (recorded two).allCollected = false ∧ held.run.state = .held ∧
      held.run.returnState = some .deciding ∧ State.reset.run.state ≠ .deciding) ∧
    ((draining.head 0).link = .locked ∧ (draining.head 0).awaitMark = false ∧ draining.run.state = .draining ∧
      draining.inGroup 0 = true ∧
      (draining.onRun fun r => { r with tallied := r.tallied ||| (1#4 <<< 0) }).allTallied = true ∧
      ((draining.onRun fun r => { r with group := 3 }).onRun fun r =>
        { r with tallied := r.tallied ||| (1#4 <<< 0) }).allTallied = false) ∧
    (deciding.run.timer.isSome ∧ (∀ h : HeadId, (1 : HeadSet).getLsbD h.val =
      (deciding.inGroup h && (deciding.gates.collected[h]).isNone)) ∧ draining.run.timer.isSome ∧
      (1 : HeadSet) = draining.run.group &&& ~~~draining.run.tallied ∧ State.reset.run.timer = none) := by
  decide +kernel

theorem witness_ADecisionParksThenExitsOrRepeats :
    let tallied := fun s : State => s.onGates fun g => { g with collected := #v[some 0x20, none, none, none] }
    let last := deciding.onGates fun g => { g with levels := [{ level with passCount := 1 }] }
    (deciding.gates.levels = level :: [] ∧ deciding.runPlan = some plan ∧ plan.expiry = .drop) ∧
    ((tallied deciding).gates.levels = level :: [] ∧ (tallied deciding).gates.collected[0] = some 0x20#32) ∧
    (last.gates.levels = { level with passCount := 1 } :: [] ∧ 1 + 1 = level.limit ∧
      (level.entry[0]).getLsbD 5 = true ∧ (last.site 0 5).state = .testing) := by decide +kernel

/-! ## Witnesses: fail words and analysis -/

theorem word_analyses (t : FailTable) : (withEntries t).Analyses word 0 where
  decoded := by rfl
  range := by decide
  head := by rfl
  site := by rfl
  region := ⟨plan, ⟨3, 0, 1023, 0, 511, 2, 1, .analyse⟩, by rfl, by rfl, rfl⟩
  open_ := ⟨by rfl, by rfl⟩

theorem running_blank : ∀ (k : HeadId) (i : SiteId), (k ≠ 0 ∨ i ≠ 5) →
    (running .streaming).site k i = .blank .off := by decide +kernel

theorem tableLaws_one (e : Entry) (h : e.ofSite 0 5 = true) : TableLaws (withEntries [(0, e)]) := by
  have other : ∀ k i, (k ≠ 0 ∨ i ≠ 5) → FailTable.heldBy k i [(0, e)] = 0 := by
    intro k i n
    simp only [FailTable.heldBy, List.filter_cons, List.filter_nil]
    have : e.ofSite k i = false := by
      simp only [Entry.ofSite, Bool.and_eq_true, beq_iff_eq] at h
      simp only [Entry.ofSite, Bool.and_eq_false_iff, beq_eq_false_iff_ne, h.1, h.2]
      rcases n with n | n
      · exact Or.inl fun x => n x.symm
      · exact Or.inr fun x => n x.symm
    simp [this]
  have blank : ∀ k i, (k ≠ 0 ∨ i ≠ 5) → (withEntries [(0, e)]).site k i = .blank .off := by
    intro k i n
    have n' : ¬ (k = 0 ∧ i = 5) := by rintro ⟨a, b⟩; rcases n with n | n <;> contradiction
    rw [withEntries, State.onSite_site, if_neg n']
    exact running_blank k i n
  refine ⟨rfl, ?_, ?_, fun k i => ?_, fun k i => ?_⟩
  · intro x hx y hy _ _
    simp only [withEntries, State.onSite_capture, State.withTable, List.mem_singleton] at hx hy
    rw [hx, hy]
  · intro x hx y hy _
    simp only [withEntries, State.onSite_capture, State.withTable, List.mem_singleton] at hx hy
    subst hx; subst hy
    cases e.key <;> simp [EntryKey.covers, EntryKey.cellInRow, EntryKey.cellInColumn]
  · by_cases n : k = 0 ∧ i = 5
    · obtain ⟨rfl, rfl⟩ := n
      show 1 = ([(0, e)].filter fun x => x.2.ofSite 0 5).length
      simp [h]
    · have n' : k ≠ 0 ∨ i ≠ 5 := by
        by_cases a : k = 0
        · exact Or.inr fun b => n ⟨a, b⟩
        · exact Or.inl a
      rw [blank k i n']
      exact (other k i n').symm
  · by_cases n : k = 0 ∧ i = 5
    · obtain ⟨rfl, rfl⟩ := n
      intro r
      have : ((withEntries [(0, e)]).site 0 5).atRest = false := rfl
      rw [this] at r
      exact absurd r (by decide)
    · have n' : k ≠ 0 ∨ i ≠ 5 := by
        by_cases a : k = 0
        · exact Or.inr fun b => n ⟨a, b⟩
        · exact Or.inl a
      rw [blank k i n']
      exact fun _ => rfl

theorem witness_FailWordsAreCheckedThenSortedByRegion :
    let s := running .streaming
    let awaits := s.onHead 0 fun c => { c with awaitMark := true }
    ((State.reset.head 0).link ≠ .locked ∧ (awaits.head 0).awaitMark = true ∧ 31 < (32 : Byte).toNat ∧
      15 < (16 : Byte).toNat ∧
      4095 < (4096 : Half).toNat ∧ (s.site 0 31).state ≠ .testing) ∧
    ((s.head 0).link = .locked ∧ (s.head 0).awaitMark = false ∧ (15 : Byte).toNat ≤ 15 ∧ (4095 : Half).toNat ≤ 4095 ∧
      (s.head 0).state = .inRun ∧
      (s.site 0 5).state = .testing ∧ s.sitePlan (s.site 0 5) = some plan) ∧
    ((∀ r ∈ plan.regions, r.bank ≠ 15) ∧
      plan.regions = [] ++ ⟨3, 0, 1023, 0, 511, 2, 1, .analyse⟩ :: plan.regions.tail ∧
      (0 : Half) ≤ 1023 ∧ (1023 : Half) ≤ 1023 ∧ (511 : Half) ≤ 511) ∧
    (plan.regions.tail.map Region.policy = [.strict, .ignore]) ∧
    (((s.onSite 0 5 fun c => { c with noRepair := true }).site 0 5).noRepair = true) := by decide

theorem witness_TheWatchCheckMarksNoticesAndRaises :
    let w : Watch := ⟨true, 0, none, 3, 100, none, false, false⟩
    let s := fun hold => (running .streaming).onCapture fun c => { c with watches := upd c.watches 3 fun _ =>
      { w with hold := hold } }
    let hit : Fin 4 → Bool := fun k => k == 3
    (∀ hold, ∀ k : Fin 4, let e := (s hold).capture.watches[k]
      hit k = true ↔ e.valid = true ∧ e.head = word.head ∧ (e.site = none ∨ e.site = some word.site) ∧
        e.bank = word.bank ∧ e.row = word.row ∧ (e.column = none ∨ e.column = some word.column)) ∧
    (∀ k : Fin 4, (8 : BitVec 4).getLsbD k.val = hit k) ∧
    ((∃ k, hit k = true) ∧ (∀ k : Fin 4, hit k = true → (s false).capture.watches[k].hold = false) ∧
      ∃ k : Fin 4, hit k = true ∧ (s true).capture.watches[k].hold = true) ∧
    (∀ k : Fin 4, (State.reset.capture.watches[k]).valid = false) := by decide +kernel

theorem witness_CoveredAndRepeatedFailsAddAHit :
    ∀ k ∈ [EntryKey.rowLine 100, .colLine 20, .cell 100 20], (withEntries [(0, entry k 255)]).Analyses word 0 ∧
      TableLaws (withEntries [(0, entry k 255)]) ∧ (0, entry k 255) ∈ (withEntries [(0, entry k 255)]).capture.table ∧
      (entry k 255).ofRegion word.head word.site 0 = true :=
  fun k _ => ⟨word_analyses _, tableLaws_one _ (by simp [entry, Entry.ofSite]),
    by simp [withEntries, State.withTable], by simp [entry, Entry.ofRegion, Entry.ofSite, word]⟩

/-- The row of the word holds no cell and its column one, as many as the spares allow. -/
theorem witness_AFailIsLearnedUnderTheExhaustionCheck :
    let s := withEntries [(0, entry (.cell 200 20) 1)]
    s.Analyses word 0 ∧ TableLaws s ∧ s.Uncovered word 0 ∧ s.sitePlan (s.site 0 5) = some plan ∧
      (s.cellsInRow word 0).length + 1 ≤ ((s.site 0 5).sparesOf 0).columns ∧
      (s.cellsInColumn word 0).length + 1 ≤ ((s.site 0 5).sparesOf 0).rows ∧ (s.site 0 5).entriesHeld ≠ plan.quota ∧
      s.capture.table.FirstFree 1 :=
  ⟨word_analyses _, tableLaws_one _ (by decide), by unfold State.Uncovered; decide +kernel, by decide +kernel,
    by decide +kernel, by decide +kernel, by decide +kernel, by unfold FailTable.FirstFree; decide +kernel⟩

/-- A cell in the row of the word, over the one spare column left; and no cell in it with no spare column left. -/
theorem witness_RowsAndColumnsArePromoted :
    let s := withEntries [(0, entry (.cell 100 45) 2)]
    let bare := (withEntries [(0, entry (.cell 200 45) 2)]).onSite 0 5 fun c =>
      { c with entry := some { entered with spares := [⟨1, 0⟩] } }
    let column := (withEntries [(0, entry (.cell 200 20) 2)]).onSite 0 5 fun c =>
      { c with entry := some { entered with spares := [⟨1, 1⟩] } }
    (s.Analyses word 0 ∧ TableLaws s ∧ s.Uncovered word 0 ∧ s.sitePlan (s.site 0 5) = some plan ∧
      (⟨2, 1⟩ : Spares) = (s.site 0 5).sparesOf 0 ∧ 1 < (s.cellsInRow word 0).length + 1) ∧
    (bare.cellsInRow word 0 = [] ∧ (bare.site 0 5).sparesOf 0 = ⟨1, 0⟩) ∧
    ((column.cellsInRow word 0).length + 1 ≤ 1 ∧ 1 < (column.cellsInColumn word 0).length + 1) :=
  ⟨⟨word_analyses _, tableLaws_one _ (by decide), by unfold State.Uncovered; decide +kernel, by decide +kernel,
    by decide +kernel, by decide +kernel⟩, by decide +kernel, by decide +kernel⟩

theorem witness_AnUnrepairableSiteIsMarkedNoRepair :
    let s := fun (r c : Nat) => (withEntries [(0, entry (.cell 200 20) 1)]).onSite 0 5 fun x =>
      { x with entry := some { entered with spares := [⟨r, c⟩] } }
    (withEntries []).Analyses word 0 ∧ (s 0 0).Uncovered word 0 ∧ (⟨0, 0⟩ : Spares) = ((s 0 0).site 0 5).sparesOf 0 ∧
      0 < ((s 0 0).cellsInRow word 0).length + 1 :=
  ⟨word_analyses _, by unfold State.Uncovered; decide +kernel, by decide +kernel, by decide +kernel⟩

/-- Head 0 in ANALYSIS with its site 5 ENDED and a job in service. -/
def analysing (force : Bool) (e : Engine) : State :=
  (((loaded 1).onHead 0 (live .analysis)).onSite 0 5 fun _ =>
    { SiteContext.blank .ended with entry := some entered, entriesHeld := 1 }).onAlloc fun _ =>
      ⟨[⟨0, 1, force, .auto⟩], some e⟩

theorem witness_JobsJoinAndEnd :
    let idle := (loaded 1).onHead 0 (live .analysis)
    (reaches (.analyse 1 4 0 2) State.reset = true ∧ 3 < (4 : Byte).toNat ∧ 1 < (2 : Byte).toNat) ∧
    (reaches (.analyse 1 0 65535 1) State.reset = true ∧ (65535 : Half) ≠ 0 ∧ (State.reset.head 0).state ≠ .analysis) ∧
    (reaches (.analyse 1 0 1 0) idle = true ∧ (idle.head 0).state = .analysis ∧ idle.alloc.jobs = []) ∧
    (∃ j ∈ (analysing false ⟨0, false, 0, 0, none⟩).alloc.jobs, j.head = 0) ∧
    ((analysing false ⟨0, false, 0, 6, none⟩).alloc = ⟨[⟨0, 1, false, .auto⟩], some ⟨0, false, 0, 6, none⟩⟩ ∧
      ∀ j : SiteId, 6 ≤ j.val → ((analysing false ⟨0, false, 0, 6, none⟩).site 0 j).state ≠ .ended ∧
        ((analysing false ⟨0, false, 0, 6, none⟩).site 0 j).state ≠ .incomplete) := by decide +kernel

theorem witness_TheEngineDecidesByFlagsAndBudget :
    let w : Work := ⟨0, .search, [], ⟨2, 1⟩, [], []⟩
    let s := (analysing true ⟨1, false, 0, 5, some w⟩).withTable [(0, entry (.cell 100 20) 1)]
    let bare := analysing false ⟨0, false, 0, 0, none⟩
    let t := bare.onSite 0 5 fun c => { c with aborted := some .link }
    let left := bare.onSite 0 5 fun c => { c with context := some w }
    State.reset.alloc = ⟨[], none⟩ ∧
    (bare.alloc = ⟨[⟨0, 1, false, .auto⟩], some ⟨0, false, 0, 0, none⟩⟩ ∧ (bare.site 0 5).aborted = none ∧
      (bare.site 0 5).captureLost = false ∧ (bare.site 0 5).expired = false ∧ (bare.site 0 5).strictFail = false ∧
      (bare.site 0 5).noRepair = false ∧ (bare.site 0 5).entriesHeld ≠ 0 ∧ (bare.site 0 5).context = none ∧
      bare.sitePlan (bare.site 0 5) = some plan ∧ (bare.site 0 5).entry = some entered ∧
      plan.regions[0]? = some ⟨3, 0, 1023, 0, 511, 2, 1, .analyse⟩ ∧ entered.spares[0]? = some ⟨2, 1⟩ ∧
      (left.site 0 5).context = some w) ∧
    (t.alloc = ⟨[⟨0, 1, false, .auto⟩], some ⟨0, false, 0, 0, none⟩⟩ ∧ (t.site 0 5).state = .ended ∧
      (∀ j : SiteId, 0 ≤ j.val → j < 5 → (t.site 0 j).state ≠ .ended ∧ (t.site 0 j).state ≠ .incomplete) ∧
      (t.site 0 5).aborted.isSome) ∧
    (s.nextSite 0 5 = some 5 ∧
      nextMove (fun r => s.capture.table.cells 0 5 r) entered.spares [] w =
        .move 1 w { w with stack := [⟨.row 100, false⟩], spares := ⟨1, 1⟩ } ∧ 1 - 1 < 1) := by decide +kernel

theorem witness_ClosureAndSearchChooseTheirLines :
    let cells : List (Half × Half) := [(3, 65535), (3, 5), (4, 5)]
    let count := fun r : Half => (cells.filter fun x => x.1 == r).length
    let columns := fun c : Half => (cells.filter fun x => x.2 == c).length
    (1 < count 3 ∧ count 0 ≤ 1 ∧ count 1 ≤ 1 ∧ count 2 ≤ 1) ∧ (1 < columns 5) ∧
    (((3 : Half), (5 : Half)) ∈ cells ∧
      (cells.all fun x => decide ((3 : Half) < x.1 ∨ ((3 : Half) = x.1 ∧ (5 : Half) ≤ x.2)))) ∧
    (unwind (fun _ => 9) [⟨.row 3, false⟩] ⟨0, 1⟩ 0 = (2, some ([⟨.col 9, true⟩], ⟨1, 0⟩))) ∧
    (columnUnder cells [.row 4] [⟨.col 65535, true⟩] = 5 ∧ columnUnder cells [.col 5] [] = 65535) ∧
    (nextMove (fun _ => []) [⟨2, 1⟩] [] ⟨0, .closure, [.row 3], ⟨1, 1⟩, [], []⟩ =
        .solved ⟨0, .search, [.row 3], ⟨1, 1⟩, [], []⟩ ∧
      ([⟨2, 1⟩, ⟨0, 0⟩] : List Spares)[1]? = some ⟨0, 0⟩ ∧ searchMove [] ⟨0, .search, [], ⟨1, 1⟩, [], []⟩ = none) := by
  decide +kernel

/-! ## Witnesses: the Bin Port -/

theorem witness_TheBinFrameComesAndGoes :
    let s := running .streaming
    s.siteSlot 0 = some 7 ∧ (s.sites[0].toList.findSome? fun c => c.entry) = some entered ∧
      s.planAt entered.slot = some plan := by decide +kernel

theorem witness_BclkEdgesDeliveryAndTheStaleTimer :
    let frame : List Byte := List.replicate 19 0
    let s := fun (f : Fin 4) (n : Nat) (led : Bool) => binned fun b =>
      { b with format := f, frame := some frame, position := n, leadTaken := led, stale := .running }
    ((State.reset.lines[0]).bclk = .low ∧ (State.reset.lines[0]).bclk ≠ .high ∧ (State.reset.bin 0).frame = none) ∧
    (∀ f, ((s f 151 true).bin 0).frame = some frame ∧ ((s f 151 true).bin 0).leadTaken = true ∧
      ((s f 151 true).bin 0).position + 1 = 152 ∧ ((s f 150 false).bin 0).position + 1 ≠ 152 ∧
      ((s f 0 false).bin 0).leadTaken = false) ∧
    ((s 0 0 false).bin 0).stale = .running ∧ (State.reset.bin 0).stale ≠ .running := by decide

/-! ## Witnesses: the laws -/

theorem witness_EveryStepKeepsTheTableLaws :
    let s := (withEntries [(0, entry (.cell 100 45) 2)]).withPending [word.command false]
    TableLaws s ∧ ∃ t, step s = .next t := by
  refine ⟨?_, _, rfl⟩
  have h := tableLaws_one (entry (.cell 100 45) 2) (by decide)
  exact ⟨h.canonical, h.keys, h.uncovered, h.counted, h.rested⟩

/-- The run streaming with its buffer and its levels full, and one request of the port handed on. -/
theorem witness_EveryStepKeepsTheBounds :
    let s := (((running .held).onRun fun r => { r with
        buffer := List.replicate 16 .gateClose, returnState := some .draining }).onGates fun g =>
          { g with levels := List.replicate 4 level, phantom := 65535 }).withPending [.gateClose]
    (RunLaws s ∧ ∃ t, step s = .next t) ∧ PortLaws { ControlPort.reset with window := busyWindow 8 } ∧
      Reported s ∧ EngineLaws (analysing false ⟨1, false, 0, 0, none⟩) :=
  ⟨⟨⟨by decide, by decide, by decide, fun h => absurd h (by decide), fun r h => by
      right; right; exact (Option.some.inj h).symm⟩, _, rfl⟩,
    ⟨by decide, by decide, by decide, by decide⟩, ⟨fun _ => ⟨rfl, rfl⟩, by decide +kernel⟩,
    ⟨fun e h => ⟨⟨0, 1, false, .auto⟩, [], rfl, by cases (Option.some.inj h); decide⟩,
      fun h => absurd h (by simp [analysing])⟩⟩

theorem headLaws_running : HeadLaws (running .streaming) where
  linked := by decide +kernel
  offline := by decide +kernel
  supplied := by decide +kernel
  serviced := by decide +kernel
  wakes := by decide +kernel
  grouped := by decide +kernel
  queued := by decide +kernel
  entries := by decide +kernel
  analysed := by decide +kernel
  jobs := by decide +kernel
  frames := by decide +kernel

theorem runLaws_running : RunLaws (running .streaming) where
  buffer := by decide
  levels := by decide
  phantom := by decide
  resting := fun h => absurd h (by decide)
  returns := fun r h => absurd h (by simp [running, loaded, State.reset, RunController.reset])

theorem witness_EveryStepKeepsTheHeadLaws :
    RunLaws (running .streaming) ∧ HeadLaws (running .streaming) ∧
      ∃ t, step ((running .streaming).withPending [.supplyTrip 0]) = .next t :=
  ⟨runLaws_running, headLaws_running, _, rfl⟩

theorem witness_EveryStepKeepsTheSiteLaws :
    RunLaws (running .streaming) ∧ HeadLaws (running .streaming) ∧ SiteLaws (running .streaming) := by
  refine ⟨runLaws_running, headLaws_running, by decide +kernel, fun h => absurd h (by decide), fun h i d => ?_⟩
  have none_ : ∀ d, (running .streaming).gates.parkedAt d h = 0 := by
    intro d; cases d <;> rfl
  have still : ∀ h i, ((running .streaming).site h i).state ≠ .parked := by decide +kernel
  rw [none_ d]
  simp [still h i]

theorem witness_EveryTakenRequestIsOwedOneReply :
    let r : Reply := ⟨1, 1, .ok, [], true⟩
    let s := (running .streaming).onPort fun p =>
      { p with window := [waiting 1 .taken, waiting 2 .accepted], replies := [r], sending := some ⟨.reply r, true⟩ }
    PortLaws s.port ∧ HeadLaws s ∧ AnswerLaws s := by
  refine ⟨⟨by decide, by decide, by decide, by decide⟩, ?_, ⟨by decide +kernel, by decide, ?_, ?_⟩⟩
  · have h := headLaws_running
    exact ⟨h.linked, h.offline, h.supplied, h.serviced, h.wakes, h.grouped, h.queued, h.entries, h.analysed, h.jobs,
      h.frames⟩
  · intro x h
    simp only [State.onPort_port, Option.some.injEq, Sending.mk.injEq, HostFrame.reply.injEq, and_true] at h
    subst h; rfl
  · intro n h
    simp [State.onPort] at h

theorem runSites_running : ∀ (h : HeadId) (i : SiteId),
    (running .streaming).site h i = if h = 0 ∧ i = 5 then { SiteContext.blank .testing with entry := some entered }
      else .blank .off := by decide +kernel

/-- The site that plays in the running part holds the run's entry; every other one holds none. -/
theorem entered_running {h : HeadId} {i : SiteId} {e : RunEntry}
    (x : ((running .streaming).site h i).entry = some e) : h = 0 ∧ i = 5 ∧ e = entered := by
  rw [runSites_running] at x
  split at x
  · rename_i w; exact ⟨w.1, w.2, (Option.some.inj x).symm⟩
  · exact absurd x (by simp [SiteContext.blank])

theorem placeLaws_running : PlaceLaws (running .streaming) where
  enabled := by decide +kernel
  entered := by decide +kernel
  waiting := by decide +kernel
  playing := by decide +kernel
  started := by decide +kernel
  analysing := by decide +kernel
  delivering := by decide +kernel
  current := fun h i e _ x => by
    obtain ⟨_, _, rfl⟩ := entered_running x
    decide
  together := fun h i j e f _ x y => by
    obtain ⟨_, _, rfl⟩ := entered_running x
    obtain ⟨_, _, rfl⟩ := entered_running y
    exact ⟨rfl, rfl⟩
  peopled := by decide +kernel

theorem planLaws_running : PlanLaws (running .streaming) where
  running := by decide
  queued := by decide +kernel
  counted := by decide +kernel
  loaded := by decide +kernel

theorem witness_EveryStepKeepsThePlacesOfSites :
    RunLaws (running .streaming) ∧ HeadLaws (running .streaming) ∧ PlaceLaws (running .streaming) ∧
      ∃ t, step ((running .streaming).withPending [.endRecord]) = .next t :=
  ⟨runLaws_running, headLaws_running, placeLaws_running, _, rfl⟩

theorem witness_EveryStepKeepsTheUseCounts :
    RunLaws (running .streaming) ∧ HeadLaws (running .streaming) ∧ PlaceLaws (running .streaming) ∧
      PlanLaws (running .streaming) ∧ ∃ t, step ((running .streaming).withPending [.endRecord]) = .next t :=
  ⟨runLaws_running, headLaws_running, placeLaws_running, planLaws_running, _, rfl⟩

theorem witness_EveryStepKeepsTheQuotaAndTheSpares : SpareLaws (running .streaming) := by
  refine ⟨fun h i p _ => ?_, fun h i e p x y => ?_, fun h i e p x y _ k sp r a b => ?_⟩
  · rw [runSites_running]; split <;> exact Nat.zero_le _
  · obtain ⟨_, _, rfl⟩ := entered_running x
    have : (running .streaming).planAt entered.slot = some plan := by decide
    rw [this] at y
    exact Option.some.inj y ▸ rfl
  · obtain ⟨_, _, rfl⟩ := entered_running x
    have : (running .streaming).planAt entered.slot = some plan := by decide
    rw [this] at y
    obtain rfl := Option.some.inj y
    have none_ : (running .streaming).capture.table = [] := rfl
    rw [none_]
    match k with
    | 0 => cases a; cases b; exact ⟨rfl, rfl⟩
    | 1 => cases a; cases b; exact ⟨rfl, rfl⟩
    | 2 => cases a; cases b; exact ⟨rfl, rfl⟩
    | k + 3 => exact absurd a (by simp [entered])

end Sys2Proof.Tests
end

section
/-!
The advance: what all operations of the part but a few do to the Fail Table, the plans and the sites. The table and the
plans stay, and a site keeps its entries, spares and no_repair mark, or begins anew from rest (R47, R48, R56).
-/

namespace Sys2Proof.Machine

/-! ## One site -/

/-- A site keeps its entries-held, its run entry and its no_repair mark, and does not come to rest. -/
structure SiteContext.Stays (c d : SiteContext) : Prop where
  held : d.entriesHeld = c.entriesHeld
  entry : d.entry = c.entry
  marked : d.noRepair = c.noRepair
  rest : d.atRest = true → c.atRest = true

/-- A site at rest begins anew with nothing held, in no run or with the spares of a LOADED plan (R47, R48, R56). -/
structure SiteContext.Begins (plans : SlotId → Option Plan) (c d : SiteContext) : Prop where
  rested : c.atRest = true
  held : d.entriesHeld = 0
  marked : d.noRepair = false
  entry : ∀ e, d.entry = some e → ∃ p, plans e.slot = some p ∧ e.spares = p.spares

namespace SiteContext

/-- A site stays as it is or begins anew. -/
def Advances (plans : SlotId → Option Plan) (c d : SiteContext) : Prop := c.Stays d ∨ c.Begins plans d

theorem Stays.refl (c : SiteContext) : c.Stays c := ⟨rfl, rfl, rfl, id⟩

theorem Stays.advances {plans : SlotId → Option Plan} {c d : SiteContext} (a : c.Stays d) : c.Advances plans d := .inl a

theorem Advances.trans {plans : SlotId → Option Plan} {c d e : SiteContext} (a : c.Advances plans d)
    (b : d.Advances plans e) : c.Advances plans e := by
  rcases b with ⟨held, entry, marked, rest⟩ | ⟨rested, held, marked, entry⟩
  · rcases a with x | x
    · exact .inl ⟨held.trans x.held, entry.trans x.entry, marked.trans x.marked, fun r => x.rest (rest r)⟩
    · exact .inr ⟨x.rested, held.trans x.held, marked.trans x.marked, fun f q => x.entry f (entry ▸ q)⟩
  · rcases a with x | x
    · exact .inr ⟨x.rest rested, held, marked, entry⟩
    · exact .inr ⟨x.rested, held, marked, entry⟩

/-- A site at rest that becomes blank begins anew in no run. -/
theorem advances_blank (plans : SlotId → Option Plan) {c : SiteContext} (x : SiteState) (r : c.atRest = true) :
    c.Advances plans (.blank x) := .inr ⟨r, rfl, rfl, fun _ q => absurd q (by simp [blank])⟩

theorem atRest_iff {c : SiteContext} : c.atRest = true ↔ c.state = .off ∨ c.state = .ready := by
  simp [atRest]

/-- A change of fields that no law of the table speaks of, into a state that is not at rest. -/
theorem stays_of_state {c d : SiteContext} (held : d.entriesHeld = c.entriesHeld) (entry : d.entry = c.entry)
    (marked : d.noRepair = c.noRepair) (off : d.state ≠ .off) (ready : d.state ≠ .ready) : c.Stays d :=
  ⟨held, entry, marked, fun r => by rcases atRest_iff.mp r with q | q <;> contradiction⟩

theorem startRun_advances {plans : SlotId → Option Plan} {e : RunEntry} (c : SiteContext)
    (h : ∃ p, plans e.slot = some p ∧ e.spares = p.spares) : c.Advances plans (c.startRun e) := by
  unfold startRun
  split
  · rename_i ready
    refine .inr ⟨atRest_iff.mpr (.inr ready), rfl, rfl, fun f q => ?_⟩
    obtain rfl := Option.some.inj q
    exact h
  · exact .inl (.refl c)

theorem endNormal_stays (c : SiteContext) : c.Stays c.endNormal := by
  unfold endNormal
  split
  · exact stays_of_state rfl rfl rfl (by simp) (by simp)
  · exact .refl c

theorem endAborted_advances {plans : SlotId → Option Plan} (cause : AbortCause) {e : Option RunEntry} (c : SiteContext)
    (h : ∀ f, e = some f → ∃ p, plans f.slot = some p ∧ f.spares = p.spares) :
    c.Advances plans (c.endAborted cause e) := by
  unfold endAborted
  split
  · exact .inl (stays_of_state rfl rfl rfl (by simp) (by simp))
  · split
    · rename_i ready
      exact .inr ⟨atRest_iff.mpr (.inr ready), rfl, rfl, h⟩
    · exact .inl (.refl c)

theorem enable_advances (plans : SlotId → Option Plan) (on : Bool) (c : SiteContext) :
    c.Advances plans (c.enable on) := by
  unfold enable
  split
  · rename_i x
    simp only [Bool.and_eq_true, beq_iff_eq] at x
    exact advances_blank plans _ (atRest_iff.mpr (.inl x.2))
  · split
    · rename_i x
      simp only [Bool.and_eq_true, beq_iff_eq] at x
      exact advances_blank plans _ (atRest_iff.mpr (.inr x.2))
    · exact .inl (.refl c)

theorem orderCaptureLost_stays (n : Half) (c : SiteContext) : c.Stays (c.orderCaptureLost n) := by
  unfold orderCaptureLost
  split
  · exact ⟨rfl, rfl, rfl, id⟩
  · exact .refl c

theorem resolve_stays (o : SiteOutcome) (l : Option (List RepairLine)) (c : SiteContext) : c.Stays (c.resolve o l) :=
  stays_of_state rfl rfl rfl (by simp [resolve]) (by simp [resolve])

end SiteContext

/-! ## The whole part -/

/-- The commands that wait, the table and the plans stay, and every site stays or begins anew. -/
structure State.Advances (s t : State) : Prop where
  pending : t.pending = s.pending
  table : t.capture.table = s.capture.table
  plans : t.planAt = s.planAt
  sites : ∀ h i, (s.site h i).Advances s.planAt (t.site h i)

namespace State

theorem Advances.refl (s : State) : s.Advances s := ⟨rfl, rfl, rfl, fun _ _ => .inl (.refl _)⟩

theorem Advances.trans {s t u : State} (a : s.Advances t) (b : t.Advances u) : s.Advances u :=
  ⟨b.pending.trans a.pending, b.table.trans a.table, b.plans.trans a.plans,
    fun h i => (a.sites h i).trans (a.plans ▸ b.sites h i)⟩

theorem Advances.ite {s t u : State} {c : Prop} [Decidable c] (a : s.Advances t) (b : s.Advances u) :
    s.Advances (if c then t else u) := by split <;> assumption

/-- What changes none of the blocks of the laws of the table advances the part. -/
theorem SameBut.advances {m : List Block} {s t : State} (a : SameBut m s t)
    (h : ∀ b ∈ [Block.pending, .capture, .store, .sites], b ∉ m) : s.Advances t where
  pending := a .pending (h _ (by decide))
  table := congrArg CaptureUnit.table (a .capture (h _ (by decide)))
  plans := funext fun i => congrArg (fun x : PlanStore => x.slots[i].record) (a .store (h _ (by decide)))
  sites k i := by
    have e : t.site k i = s.site k i :=
      congrArg (fun x : Vector (Vector SiteContext 32) 4 => x[k][i]) (a .sites (h _ (by decide)))
    rw [e]
    exact .inl (.refl _)

theorem mapSites_advances (h : HeadId) {f : SiteId → SiteContext → SiteContext} {s : State}
    (e : ∀ i, (s.site h i).Advances s.planAt (f i (s.site h i))) : s.Advances (s.mapSites h f) where
  pending := rfl
  table := rfl
  plans := rfl
  sites k i := by
    rw [mapSites_site]
    split
    · rename_i q; subst q; exact e i
    · exact .inl (.refl _)

theorem onSite_advances (h : HeadId) (i : SiteId) {f : SiteContext → SiteContext} {s : State}
    (e : (s.site h i).Stays (f (s.site h i))) : s.Advances (s.onSite h i f) where
  pending := rfl
  table := rfl
  plans := rfl
  sites k j := by
    rw [onSite_site]
    split
    · rename_i q; obtain ⟨rfl, rfl⟩ := q; exact .inl e
    · exact .inl (.refl _)

/-- A change of the Capture Unit that leaves the table. -/
theorem onCapture_advances {f : CaptureUnit → CaptureUnit} (s : State) (e : (f s.capture).table = s.capture.table) :
    s.Advances (s.onCapture f) := ⟨rfl, e, rfl, fun _ _ => .inl (.refl _)⟩

/-- A change of a slot of the Plan Store that leaves its record. -/
theorem onSlot_advances (i : SlotId) {f : PlanSlot → PlanSlot} (e : ∀ x, (f x).record = x.record) (s : State) :
    s.Advances (s.onStore fun p => { p with slots := upd p.slots i f }) where
  pending := rfl
  table := rfl
  plans := funext fun j => by
    show (upd s.store.slots i f)[j].record = s.store.slots[j].record
    rw [upd_get]
    split
    · rename_i q; rw [q, e]
    · rfl
  sites := fun _ _ => .inl (.refl _)

theorem useSlot_advances (i : SlotId) (s : State) : s.Advances (s.useSlot i) :=
  onSlot_advances i (f := fun x => { x with useCount := x.useCount + 1 }) (fun _ => rfl) s

theorem dropUse_advances (o : Option SlotId) (s : State) : s.Advances (s.dropUse o) := by
  cases o with
  | none => exact .refl s
  | some i => exact onSlot_advances i (f := fun x => { x with useCount := x.useCount - 1 }) (fun _ => rfl) s

/-! ### What comes at the end of a step -/

section
variable {s t : State} (a : s.Advances t)
include a

theorem Advances.emitted : s.Advances t.emit := a.trans ((emit_same t).advances (by decide))
theorem Advances.reported : s.Advances t.report := a.trans ((report_same t).advances (by decide))
theorem Advances.settled : s.Advances t.settle := a.trans ((settle_same t).advances (by decide))
theorem Advances.served : s.Advances t.serve := a.trans ((serve_same t).advances (by decide))
theorem Advances.answered (k g : Byte) (st : Status) (f : List Byte) : s.Advances (t.answer k g st f) :=
  a.trans ((answer_same k g st f t).advances (by decide))
theorem Advances.answeredOk (q : Request) (f : List Byte) : s.Advances (t.answerOk q f) :=
  a.trans ((answerOk_same q f t).advances (by decide))
theorem Advances.withHead (h : HeadId) (f : HeadContext → HeadContext) : s.Advances (t.onHead h f) :=
  a.trans ((onHead_same h f t).advances (by decide))
theorem Advances.withRun (f : RunController → RunController) : s.Advances (t.onRun f) :=
  a.trans ((onRun_same f t).advances (by decide))

end

/-- A refusal changes the port alone. -/
theorem refused_advances (q : Request) (st : Status) (s : State) : s.Advances (s.refuse q st).emit :=
  ((refuse_same q st s).advances (by decide)).emitted

end State
end Sys2Proof.Machine
end

section
/-!
The advance of the shared operations: run ends, gates, drops, run exceptions, services, links and the engine leave the
table and the plans, and every site stays or begins anew.
-/

namespace Sys2Proof.Machine.State

/-! ## Runs -/

/-- A site that enters the run takes the spares of a LOADED plan (R48, R56). -/
theorem runEntry_spares {s : State} {e : RunEntry} (h : s.runEntry = some e) :
    ∃ p, s.planAt e.slot = some p ∧ e.spares = p.spares := by
  unfold runEntry at h
  split at h
  · rename_i slot p hs hp
    obtain rfl := Option.some.inj h
    exact ⟨p, by simpa [runPlan, hs] using hp, rfl⟩
  · exact absurd h (by simp)

/-- The same in a state that the part has advanced to since. -/
theorem Advances.runEntry_spares {s t : State} (a : s.Advances t) {e : RunEntry} (h : s.runEntry = some e) :
    ∃ p, t.planAt e.slot = some p ∧ e.spares = p.spares := a.plans ▸ State.runEntry_spares h

theorem clearRun_advances (s : State) : s.Advances s.clearRun := (clearRun_same s).advances (by decide)

theorem autoJobs_advances (p : Option Plan) (set : HeadSet) (s : State) : s.Advances (s.autoJobs p set) :=
  (autoJobs_same p set s).advances (by decide)

theorem runNotice_advances (n : Notice) (s : State) : s.Advances (s.runNotice n) :=
  (runNotice_same n s).advances (by decide)

theorem setHeadState_advances (h : HeadId) (x : HeadState) (s : State) : s.Advances (s.setHeadState h x) :=
  (setHeadState_same h x s).advances (by decide)

theorem sendHead_advances (h : HeadId) (f : HeadFrame) (s : State) : s.Advances (s.sendHead h f) :=
  (sendHead_same h f s).advances (by decide)

theorem sendSource_advances (m : SourceMessage) (s : State) : s.Advances (s.sendSource m) :=
  (sendSource_same m s).advances (by decide)

theorem onRun_advances (f : RunController → RunController) (s : State) : s.Advances (s.onRun f) :=
  (onRun_same f s).advances (by decide)

theorem onGates_advances (f : GateUnit → GateUnit) (s : State) : s.Advances (s.onGates f) :=
  (onGates_same f s).advances (by decide)

theorem onHead_advances (h : HeadId) (f : HeadContext → HeadContext) (s : State) : s.Advances (s.onHead h f) :=
  (onHead_same h f s).advances (by decide)

/-- A loop over heads whose body advances the part from wherever it has come to. -/
theorem forHeads_advances {f : HeadId → State → State} {s : State} (h : ∀ k t, s.Advances t → t.Advances (f k t))
    (set : HeadSet) : s.Advances (s.forHeads set f) :=
  forHeads_keeps (P := s.Advances) (fun k t a => a.trans (h k t a)) set (.refl s)

theorem normalEnd_advances (s : State) : s.Advances s.normalEnd := by
  have ended := forHeads_advances (s := s) (f := fun h t => (t.mapSites h fun _ c => c.endNormal).setHeadState h .analysis)
    (fun h t _ => (mapSites_advances h fun _ => (SiteContext.endNormal_stays _).advances).trans
      (setHeadState_advances h _ _)) s.run.group
  exact ((ended.trans (autoJobs_advances _ _ _)).trans (runNotice_advances _ _)).trans (clearRun_advances _)

theorem abortedEnd_advances (s : State) : s.Advances s.abortedEnd := by
  have ended := forHeads_advances (s := s)
    (f := fun h t => (t.mapSites h fun _ c => c.endAborted s.endCause s.runEntry).setHeadState h .analysis)
    (fun h t a => (mapSites_advances h fun _ => SiteContext.endAborted_advances _ _ fun _ => a.runEntry_spares).trans
      (setHeadState_advances h _ _)) s.run.group
  exact ((ended.trans (autoJobs_advances _ _ _)).trans (runNotice_advances _ _)).trans (clearRun_advances _)

theorem endWithoutStart_advances (w : StartFailure) (s : State) : s.Advances (s.endWithoutStart w) := by
  have ended := forHeads_advances (s := s)
    (f := fun h t => (((t.sendHead h .runStop).setHeadState h .idle).raiseFlag h HeadFlag.runDeclined).dropUse s.run.slot)
    (fun h t _ => (((sendHead_advances h _ t).trans (setHeadState_advances h _ _)).withHead h _).trans
      (dropUse_advances _ _)) s.run.group
  exact (ended.withRun _).trans (clearRun_advances _)

theorem startRun_advances (s : State) : s.Advances s.startRun := by
  have started := (forHeads_advances (s := s) (f := fun h u => u.mapSites h fun _ c =>
      match s.runEntry with
      | some e => c.startRun e
      | none => c) (fun h t a => mapSites_advances h fun _ => by
        cases e : s.runEntry with
        | none => exact .inl (.refl _)
        | some x => exact SiteContext.startRun_advances _ (a.runEntry_spares e)) s.run.group).withRun
    (fun r => { r with timer := none, state := .streaming })
  unfold startRun
  simp only
  split
  · exact started.trans (runNotice_advances _ _)
  · exact started

/-! ## Gates -/

theorem parkSites_advances (d p : Nat) (set : SiteSet) (h : HeadId) (s : State) :
    s.Advances (s.parkSites d p set h) := by
  refine (mapSites_advances h fun i => ?_).trans (sendHead_advances h _ _)
  split
  · exact .inl (SiteContext.stays_of_state rfl rfl rfl (by simp) (by simp))
  · exact .inl (.refl _)

theorem expireSites_advances (p : Expiry) (d : Nat) (set : SiteSet) (h : HeadId) (s : State) :
    s.Advances (s.expireSites p d set h) := by
  have dropped : s.Advances (s.mapSites h fun i c =>
      if set.getLsbD i.val then { c with expired := true, state := .dropped } else c) := by
    refine mapSites_advances h fun i => ?_
    split
    · exact .inl (SiteContext.stays_of_state rfl rfl rfl (by simp) (by simp))
    · exact .inl (.refl _)
  unfold expireSites
  split
  · exact dropped.ite (dropped.trans (sendHead_advances h _ _))
  · refine mapSites_advances h fun i => ?_
    split
    · exact .inl ⟨rfl, rfl, rfl, id⟩
    · exact .inl (.refl _)

theorem unparkSites_advances (d : Nat) (set : SiteSet) (h : HeadId) (s : State) :
    s.Advances (s.unparkSites d set h) := by
  refine (mapSites_advances h fun i => ?_).trans (sendHead_advances h _ _)
  split
  · exact .inl (SiteContext.stays_of_state rfl rfl rfl (by simp) (by simp))
  · exact .inl (.refl _)

theorem exitLevel_advances (l : GateLevel) (b : List GateLevel) (s : State) : s.Advances (s.exitLevel l b) :=
  ((forHeads_advances (fun h t _ => unparkSites_advances _ _ h t) _).trans (onGates_advances _ _)).trans
    (sendSource_advances _ _)

theorem decideLevel_advances (l : GateLevel) (b : List GateLevel) (s : State) : s.Advances (s.decideLevel l b) := by
  unfold decideLevel
  exact (exitLevel_advances l b s).ite
    (((forHeads_advances (fun h t _ => expireSites_advances _ _ _ h t) _).trans (exitLevel_advances l b _)).ite
      ((repeatLevel_same l b s).advances (by decide)))

theorem makeDecision_advances (s : State) : s.Advances s.makeDecision := by
  unfold makeDecision
  split
  · exact .refl s
  · exact ((forHeads_advances (fun h t _ => parkSites_advances _ _ _ h t) _).trans (decideLevel_advances _ _ _)).trans
      ((afterDecision_same _).advances (by decide))

/-! ## Drops -/

theorem removeHead_advances (h : HeadId) (c : AbortCause) (s : State) : s.Advances (s.removeHead h c) := by
  let bit : HeadSet := ~~~(1#4 <<< h.val)
  have before := (onRun_advances (fun r => { r with group := r.group &&& bit, tallied := r.tallied &&& bit }) s).trans
    (onGates_advances (fun g =>
      { g with levels := g.levels.map (gateLevelWithout h), collected := upd g.collected h fun _ => none }) _)
  have ended := before.trans (mapSites_advances h fun _ =>
    SiteContext.endAborted_advances c _ fun _ => before.runEntry_spares)
  exact ((ended.trans (sendHead_advances h _ _)).trans (setHeadState_advances h _ _)).withHead h _

theorem afterDrop_advances (s : State) : s.Advances s.afterDrop := by
  unfold afterDrop
  refine ((abortRun_same _ s).advances (by decide)).ite ?_
  split
  · exact (makeDecision_advances s).ite (.refl s)
  · exact (normalEnd_advances s).ite (.refl s)
  · exact .refl s

theorem dropHead_advances (h : HeadId) (c : AbortCause) (s : State) : s.Advances (s.dropHead h c) :=
  ((removeHead_advances h c s).trans (afterDrop_advances _)).ite (.refl s)

/-! ## Run exceptions -/

theorem applyDefault_advances (r : Raise) (s : State) : s.Advances (s.applyDefault r) := by
  have lost : s.Advances (match r.head, r.site with
      | some h, some i => s.onSite h i (SiteContext.orderCaptureLost s.run.runNumber)
      | _, _ => s) := by
    split
    · exact onSite_advances _ _ (SiteContext.orderCaptureLost_stays _ _)
    · exact .refl s
  unfold applyDefault
  split
  · exact onGates_advances _ s
  · exact sendSource_advances _ s
  · exact lost
  · exact lost
  · exact .refl s
  · exact .refl s
  · exact forHeads_advances (fun h t _ => dropHead_advances h _ t) _

theorem raiseException_advances (r : Raise) (s : State) : s.Advances (s.raiseException r) := by
  have flagged := onRun_advances (RunController.setException r.cause.bit) s
  unfold raiseException
  split
  · exact .refl s
  · exact .refl s
  · exact (flagged.trans ((setMore_same _).advances (by decide))).trans (applyDefault_advances r _)
  · exact flagged.trans (applyDefault_advances r _)
  · exact (flagged.trans (applyDefault_advances r _)).ite (flagged.trans ((holdRun_same r _).advances (by decide)))

theorem takeEach_advances (l : List HandedRaise) (s : State) : s.Advances (s.takeEach l) := by
  induction l generalizing s with
  | nil => exact .refl s
  | cons r rest ih => exact ((Advances.refl s).ite (raiseException_advances _ s)).trans (ih _)

theorem takeRaises_advances (s : State) : s.Advances s.takeRaises :=
  (onCapture_advances s rfl).trans (takeEach_advances _ _)

theorem takeOldestRaises_advances (s : State) : s.Advances s.takeOldestRaises := by
  unfold takeOldestRaises
  split
  · exact .refl s
  · exact ((onCapture_advances s rfl).trans (takeEach_advances _ _)).emitted

theorem handRaise_advances (w : FailWord) (c : FailCause) (r : Option Nat) (s : State) :
    s.Advances (s.handRaise w c r) := onCapture_advances s rfl

theorem watchCheck_advances (w : FailWord) (s : State) : s.Advances (watchCheck w s) := by
  have marked : s.Advances (s.onCapture (CaptureUnit.markHits w)) := onCapture_advances s rfl
  have noticed : s.Advances (if s.port.config.watchNotices then (s.onCapture (CaptureUnit.markHits w)).queueNotice
      (.watchHit w.head w.site w.bank w.row w.column (matchingWatches w s)) else s.onCapture (CaptureUnit.markHits w)) :=
    (marked.trans ((queueNotice_same _ _).advances (by decide))).ite marked
  unfold watchCheck
  exact (Advances.refl s).ite ((noticed.trans (handRaise_advances _ _ _ _)).ite noticed)

/-! ## Heads -/

theorem join_advances (h : HeadId) (i : SlotId) (s : State) : s.Advances (s.join h i) := by
  unfold join
  split
  · exact .refl s
  · exact (((onArbiter_same _ s).advances (by decide)).trans (setHeadState_advances h _ _)).trans (useSlot_advances i _)

theorem joinDefault_advances (h : HeadId) (s : State) : s.Advances (s.joinDefault h) := by
  unfold joinDefault
  split
  · exact .refl s
  · exact join_advances h _ s

theorem withdraw_advances (h : HeadId) (x : HeadState) (s : State) : s.Advances (s.withdraw h x) :=
  (((unqueue_same h s).advances (by decide)).trans (setHeadState_advances h _ _)).trans (dropUse_advances _ _)

theorem startEdge_advances (h : HeadId) (s : State) : s.Advances (s.startEdge h) := by
  have seen : s.Advances (s.raiseFlag h HeadFlag.startSeen) := onHead_advances h _ s
  unfold startEdge
  simp only
  split
  · exact seen
  · exact (seen.trans ((edgeWake_same h _).advances (by decide))).ite seen
  · exact (seen.trans (joinDefault_advances h _)).ite seen
  · exact seen.withHead h _

theorem recognise_advances (h : HeadId) (l : LineLevel) (s : State) : s.Advances (s.recognise h l) := by
  have held := onHead_advances h (fun c => { c with recognised := l, candidate := none }) s
  exact (held.trans (startEdge_advances h _)).ite held

theorem filterChange_advances (h : HeadId) (l : LineLevel) (s : State) : s.Advances (s.filterChange h l) := by
  unfold filterChange
  exact (onHead_advances h _ s).ite ((recognise_advances h l s).ite ((Advances.refl s).ite (onHead_advances h _ s)))

theorem answerService_advances (v : Service) (st : Status) (f : List Byte) (s : State) :
    s.Advances (s.answerService v st f) := (answerService_same v st f s).advances (by decide)

theorem endWakeGood_advances (h : HeadId) (v : Service) (m : Bool) (s : State) :
    s.Advances (s.endWakeGood h v m) := by
  have idle := setHeadState_advances h .idle s
  exact (((idle.trans (joinDefault_advances h _)).ite idle).ite (.refl s)).trans (answerService_advances _ _ _ _)

theorem endWake_advances (h : HeadId) (v : Service) (m : Bool) (e : ServiceEnd) (s : State) :
    s.Advances (s.endWake h v m e) := by
  unfold endWake
  split
  · exact (endWakeBad_same h v s).advances (by decide)
  · exact (endWakeBad_same h v s).advances (by decide)
  · exact endWakeGood_advances h v m s

theorem endService_advances (h : HeadId) (v : Service) (e : ServiceEnd) (s : State) :
    s.Advances (s.endService h v e) := by
  unfold endService
  refine Advances.trans ((onHead_advances h (fun c => { c with slot := none }) s).trans ?_)
    ((issuePendingWake_same h _).advances (by decide))
  split
  · exact (endSupplyOn_same h v e _).advances (by decide)
  · exact (endSupplyOff_same h v e _).advances (by decide)
  · exact (endAccess_same v e _ _).advances (by decide)
  · exact (endAccess_same v e _ _).advances (by decide)
  · exact (endSleep_same h v e _).advances (by decide)
  · exact endWake_advances h v _ e _

theorem headOffLink_advances (h : HeadId) (s : State) : s.Advances (s.headOffLink h) := by
  unfold headOffLink
  split
  · exact .refl s
  · exact (setHeadState_advances h _ s).withHead h _
  · exact setHeadState_advances h _ s
  · exact setHeadState_advances h _ s
  · exact withdraw_advances h _ s
  · exact dropHead_advances h _ s
  · exact .refl s
  · exact .refl s

theorem linkDown_advances (h : HeadId) (s : State) : s.Advances (s.linkDown h) :=
  (((onHead_advances h _ s).withHead h _).trans ((answerCancelled_same h _ _ _).advances (by decide))).trans
    (headOffLink_advances h _)

theorem loseLink_advances (h : HeadId) (s : State) : s.Advances (s.loseLink h) :=
  (((setLink_same h _ s).advances (by decide)).withHead h _).trans (linkDown_advances h _)

theorem misplacedMark_advances (h : HeadId) (p : Fin 16) (s : State) : s.Advances (s.misplacedMark h p) := by
  unfold misplacedMark
  refine ((placedMark_same h s).advances (by decide)).ite ?_
  split
  · split <;> exact onHead_advances h _ s
  · exact ((onHead_advances h _ s).trans (loseLink_advances h _)).ite (onHead_advances h _ s)
  · exact .refl s

theorem lossOfSignal_advances (h : HeadId) (s : State) : s.Advances (s.lossOfSignal h) := by
  unfold lossOfSignal
  split
  · exact onHead_advances h _ s
  · exact (loseLink_advances h s).ite (.refl s)
  · exact .refl s

theorem disableLink_advances (h : HeadId) (s : State) : s.Advances (s.disableLink h) := by
  unfold disableLink
  split
  · exact .refl s
  · exact (((setLink_same h _ s).advances (by decide)).withHead h _).trans (linkDown_advances h _)

theorem enableLink_advances (h : HeadId) (changed : Bool) (s : State) : s.Advances (s.enableLink h changed) := by
  unfold enableLink
  split
  · exact ((setLink_same h _ s).advances (by decide)).withHead h _
  · exact (onHead_advances h _ s).ite (.refl s)
  · exact .refl s

theorem configureLink_advances (h : HeadId) (e l : Bool) (m : AlignMode) (s : State) :
    s.Advances (s.configureLink h e l m) := by
  have stored := onHead_advances h (fun c => { c with linkEnable := e, losDetect := l, alignMode := m }) s
  exact (stored.trans (enableLink_advances h _ _)).ite (stored.trans (disableLink_advances h _))

theorem enableSites_advances (h : HeadId) (set : SiteSet) (s : State) : s.Advances (s.enableSites h set) :=
  (onHead_advances h _ s).trans (mapSites_advances h fun _ => SiteContext.enable_advances _ _ _)

theorem startSupply_advances (h : HeadId) (on : Bool) (o : ServiceOrigin) (s : State) :
    s.Advances (s.startSupply h on o) :=
  ((issueService_same h _ o s).advances (by decide)).withHead h _

/-! ## The engine -/

theorem resolveSite_advances (h : HeadId) (i : SiteId) (u : Nat) (o : SiteOutcome) (l : Option (List RepairLine))
    (s : State) : s.Advances (s.resolveSite h i u o l) :=
  (onSite_advances h i (SiteContext.resolve_stays o l _)).trans ((onAlloc_same _ _).advances (by decide))

theorem endJob_advances (j : Job) (e : Engine) (s : State) : s.Advances (s.endJob j e) :=
  (endJob_same j e s).advances (by decide)

theorem exhausted_advances (j : Job) (e : Engine) (i : SiteId) (w : Work) (s : State) :
    s.Advances (s.exhausted j e i w) := by
  unfold exhausted
  exact ((resolveSite_advances _ _ _ _ _ s).trans ((spendAll_same _).advances (by decide))).ite
    ((onSite_advances _ _ (SiteContext.stays_of_state rfl rfl rfl (by simp) (by simp))).trans (endJob_advances j e _))

theorem allocate_advances (j : Job) (e : Engine) (i : SiteId) (w : Work) (s : State) :
    s.Advances (s.allocate j e i w) := by
  unfold allocate
  simp only
  split
  · exact ((keepWork_same _ _ _ s).advances (by decide)).ite (exhausted_advances _ _ _ _ s)
  · exact (resolveSite_advances _ _ _ _ _ s).ite (exhausted_advances _ _ _ _ s)
  · exact resolveSite_advances _ _ _ _ _ s

theorem takeSite_advances (j : Job) (e : Engine) (i : SiteId) (s : State) : s.Advances (s.takeSite j e i) := by
  unfold takeSite
  simp only
  split
  · exact resolveSite_advances _ _ _ _ _ s
  · split
    · exact allocate_advances _ _ _ _ s
    · split
      · exact allocate_advances _ _ _ _ s
      · exact resolveSite_advances _ _ _ _ _ s

theorem engineMove_advances (s : State) : s.Advances s.engineMove := by
  unfold engineMove
  split
  · unfold moveJob
    split
    · exact endJob_advances _ _ s
    · split
      · exact allocate_advances _ _ _ _ s
      · exact takeSite_advances _ _ _ s
  · exact .refl s

/-! ## The Feed Link and the tallies -/

theorem openGate_advances (limit : Half) (s : State) : s.Advances (s.openGate limit) :=
  (onGates_advances _ s).ite (raiseException_advances _ s)

theorem startTally_advances (x : RunState) (s : State) : s.Advances (s.startTally x) := onRun_advances _ s

theorem closeGate_advances (s : State) : s.Advances s.closeGate := by
  unfold closeGate
  refine Advances.ite ?_ ?_
  · exact ((forHeads_advances (fun h t _ => sendHead_advances h _ t) _).trans (onGates_advances _ _)).trans
      (sendSource_advances _ _)
  · split
    · exact raiseException_advances _ s
    · exact (onGates_advances _ s).trans (startTally_advances _ _)

theorem takeRecord_advances (r : FeedRecord) (s : State) : s.Advances (s.takeRecord r) := by
  have counted := (onRun_advances (fun c => { c with recordCount := c.recordCount + 1 }) s).trans
    ((forward_same r _).advances (by decide))
  unfold takeRecord
  simp only
  split
  · exact counted
  · exact counted.trans (openGate_advances _ _)
  · exact counted.trans (closeGate_advances _)
  · exact (counted.trans (onRun_advances _ _)).trans (startTally_advances _ _)

theorem feedFault_advances (f : RunFault) (s : State) : s.Advances (s.feedFault f) :=
  (feedFault_same f s).advances (by decide)

theorem arriveRecord_advances (r : FeedRecord) (s : State) : s.Advances (s.arriveRecord r) := by
  unfold arriveRecord
  split
  · exact (setPartFlag_same _ s).advances (by decide)
  · exact feedFault_advances _ s
  · exact takeRecord_advances r s
  · exact feedFault_advances _ s
  · exact feedFault_advances _ s
  · exact (onRun_advances _ s).ite (feedFault_advances _ s)
  · exact .refl s

theorem endFeedReset_advances (g : Byte) (b : Bool) (st : Status) (s : State) : s.Advances (s.endFeedReset g b st) :=
  (endFeedReset_same g b st s).advances (by decide)

theorem sourceMessage_advances (m : Option SourceInput) (s : State) : s.Advances (s.sourceMessage m) := by
  unfold sourceMessage
  split
  · split
    · exact endFeedReset_advances _ _ _ s
    · exact .refl s
  · split
    · exact (illFormed_same s).advances (by decide)
    · exact (startRun_advances s).ite (.refl s)
    · exact (endWithoutStart_advances _ s).ite (.refl s)
    · exact arriveRecord_advances _ s
    · exact (abortedEnd_advances s).ite (.refl s)
    · exact .refl s

theorem acceptExpiry_advances (s : State) : s.Advances s.acceptExpiry :=
  ((endWithoutStart_advances _ s).withRun _).settled.ite (.refl s)

theorem haltExpiry_advances (s : State) : s.Advances s.haltExpiry :=
  ((abortedEnd_advances s).withRun _).settled.ite (.refl s)

theorem resetExpiry_advances (s : State) : s.Advances s.resetExpiry := by
  unfold resetExpiry
  split
  · exact (endFeedReset_advances _ _ _ s).emitted.ite (.refl s)
  · exact .refl s

theorem tallyExpiry_advances (x : RunState) (s : State) : s.Advances (s.tallyExpiry x) := by
  unfold tallyExpiry
  exact ((onRun_advances _ s).trans (raiseException_advances _ _)).settled.ite (.refl s)

theorem passTallyFrame_advances (h : HeadId) (d p : Half) (m : SiteSet) (s : State) :
    s.Advances (s.passTallyFrame h d p m) := by
  have taken := onGates_advances (fun g => { g with collected := upd g.collected h fun _ => some m }) s
  unfold passTallyFrame
  exact ((taken.trans (makeDecision_advances _)).ite taken).emitted.ite (.refl s)

theorem endTallyFrame_advances (h : HeadId) (s : State) : s.Advances (s.endTallyFrame h) := by
  have taken := onRun_advances (fun r => { r with tallied := r.tallied ||| (1#4 <<< h.val) }) s
  unfold endTallyFrame
  exact ((taken.trans (normalEnd_advances _)).ite taken).settled.ite (.refl s)

/-! ## RESUME -/

theorem replay_advances (l : List FeedRecord) (s : State) : s.Advances (replay l s) := by
  induction l generalizing s with
  | nil => exact .refl s
  | cons r rest ih =>
    unfold replay
    exact (((onRun_advances _ s).trans (arriveRecord_advances r _)).trans (ih _)).ite (.refl s)

theorem completeWait_advances (s : State) : s.Advances s.completeWait := by
  unfold completeWait
  split
  · exact (makeDecision_advances s).ite (onRun_advances _ s)
  · exact (normalEnd_advances s).ite (onRun_advances _ s)
  · exact .refl s

theorem resumeRun_advances (x : HoldRecord) (r : RunState) (s : State) : s.Advances (s.resumeRun x r) :=
  (((onRun_advances _ s).trans (applyDefault_advances _ _)).trans (completeWait_advances _)).trans
    ((replay_advances _ _).trans ((continueSource_same _).advances (by decide)))

end Sys2Proof.Machine.State
end

section
/-!
What a step can do to the Fail Table, the plans and the sites: it advances the part, resets it, takes a fail word on the
path of an ANALYSE region, releases or clears the sites of a head, or writes a plan slot that is not in use. Every
command has a next state, and it is one of these.
-/

namespace Sys2Proof.Machine

/-- The state `t` is one that a step can make of `s`. -/
inductive State.Effect (s : State) : State → Prop
  /-- The table and the plans stay. -/
  | quiet {t : State} : s.Advances t → Effect s t
  /-- A reset of the part (R183, R184). -/
  | reset {t : State} : s.resetBlocks.Advances t → Effect s t
  /-- A fail word of a TESTING site on the path of an ANALYSE region (R10 to R18). -/
  | analyse {a t : State} (w : FailWord) (k : Nat) : s.Advances a → (a.site w.head w.site).state = .testing →
      (a.analysePath w k).Advances t → Effect s t
  /-- The sites of a head whose bin frame goes are released, and its entries freed (R59, R27). -/
  | release {a t : State} (h : HeadId) : ((s.head h).state = .binWait ∨ (s.bin h).frame.isSome = true) → s.Advances a →
      a.sites = s.sites → (a.releaseSites h).Advances t → Effect s t
  /-- HEAD_RESET clears the sites of a head and frees its entries (R61, R26). -/
  | clear {a t : State} (h : HeadId) (on : SiteId → Bool) : s.Advances a →
      ((a.clearCapture h).mapSites h fun i _ => SiteContext.afterReset (on i)).Advances t → Effect s t
  /-- A plan slot that is not in use is written (R39, R42). -/
  | write {t : State} (i : SlotId) (p : Option Plan) : s.useCount i = 0 → (s.writeSlot i p).Advances t → Effect s t

namespace State

/-- What comes after the effect of a step and only advances the part. -/
theorem Effect.andThen {s t u : State} (e : s.Effect t) (a : t.Advances u) : s.Effect u := by
  cases e with
  | quiet x => exact .quiet (x.trans a)
  | reset x => exact .reset (x.trans a)
  | analyse w k x site y => exact .analyse w k x site (y.trans a)
  | release h bin x same y => exact .release h bin x same (y.trans a)
  | clear h on x y => exact .clear h on x (y.trans a)
  | write i p free x => exact .write i p free (x.trans a)

theorem Effect.ite {s t u : State} {c : Prop} [Decidable c] (a : s.Effect t) (b : s.Effect u) :
    s.Effect (if c then t else u) := by split <;> assumption

/-! ## Requests -/

theorem onPort_advances (f : ControlPort → ControlPort) (s : State) : s.Advances (s.onPort f) :=
  (onPort_same f s).advances (by decide)

/-- A request does what its owner does, or comes in at the port. -/
theorem takeRequest_effect {q : Request} {owner : State → State} {s : State}
    (h : ∀ p, s.Effect (owner (s.onPort fun _ => p))) : s.Effect (takeRequest q owner s) := by
  cases e : s.port.offer q with
  | none =>
    rw [takeRequest_arrives e]
    exact .quiet (onPort_advances _ s).emitted
  | some p =>
    rw [takeRequest_taken e]
    exact h p

/-- The same when all that the owner does is to advance the part. -/
theorem takeRequest_quiet {q : Request} {owner : State → State} (h : ∀ t : State, t.Advances (owner t)) (s : State) :
    s.Effect (takeRequest q owner s) :=
  takeRequest_effect fun _ => .quiet ((onPort_advances _ s).trans (h _))

/-- A reply OK on what the part has come to. -/
theorem Advances.replied {s t : State} (a : s.Advances t) (q : Request) (f : List Byte) :
    s.Advances (t.answerOk q f).emit := (a.answeredOk q f).emitted

section
variable (q : Request) (s : State)

theorem answered_advances (f : List Byte) : s.Advances (s.answerOk q f).emit := (Advances.refl s).replied q f

theorem configureRequest_advances (b : ConfigureBody) : s.Advances (s.configureRequest q b) := by
  unfold configureRequest
  split
  · exact refused_advances q _ s
  · rename_i config map _
    have stored : s.Advances ((s.onPort fun p => { p with config := config }).onStore fun t =>
      { t with classMap := map }) := ⟨rfl, rfl, rfl, fun _ _ => .inl (.refl _)⟩
    exact stored.replied q _

theorem eventsReadRequest_advances (b : EventsBody) : s.Advances (s.eventsReadRequest q b) :=
  have cleared : s.Advances (s.clearEvents b) := ⟨rfl, rfl, rfl, fun _ _ => .inl (.refl _)⟩
  cleared.replied q _

theorem planReadRequest_advances (x : Byte) : s.Advances (s.planReadRequest q x) := by
  unfold planReadRequest
  split
  · exact refused_advances q _ s
  · exact answered_advances q s _

theorem siteEnableRequest_advances (x : Byte) (set : SiteSet) : s.Advances (s.siteEnableRequest q x set) := by
  unfold siteEnableRequest
  split
  · exact refused_advances q _ s
  · split
    · exact (enableSites_advances _ _ s).replied q _
    · exact (enableSites_advances _ _ s).replied q _
    · exact (enableSites_advances _ _ s).replied q _
    · exact refused_advances q _ s

theorem headLinkRequest_advances (x e l m : Byte) : s.Advances (s.headLinkRequest q x e l m) := by
  unfold headLinkRequest
  split
  · exact ((configureLink_advances _ _ _ _ s).answeredOk q _).settled
  · exact refused_advances q _ s

theorem linkShiftRequest_advances (x : Byte) : s.Advances (s.linkShiftRequest q x) := by
  unfold linkShiftRequest
  split
  · exact refused_advances q _ s
  · exact ((onHead_advances _ _ s).replied q _).ite (refused_advances q _ s)

theorem supplySetRequest_advances (x y : Byte) : s.Advances (s.supplySetRequest q x y) := by
  unfold supplySetRequest
  have refused := fun st => refused_advances q st s
  split
  · exact (refused _).ite ((refused _).ite ((refused _).ite ((answered_advances q s _).ite
      (startSupply_advances _ _ _ s).emitted)))
  · exact refused _

theorem issueService_advances (h : HeadId) (op : ServiceOp) (o : ServiceOrigin) : s.Advances (s.issueService h op o) :=
  (issueService_same h op o s).advances (by decide)

theorem headAccessRequest_advances (x d r : Byte) (v : Half) : s.Advances (s.headAccessRequest q x d r v) := by
  unfold headAccessRequest
  have refused := fun st => refused_advances q st s
  split
  · exact (refused _).ite ((refused _).ite (issueService_advances s _ _ _).emitted)
  · exact refused _

theorem headStandbyRequest_advances (x : Byte) : s.Advances (s.headStandbyRequest q x) := by
  unfold headStandbyRequest
  have refused := fun st => refused_advances q st s
  split
  · exact refused _
  · exact (refused _).ite ((refused _).ite ((refused _).ite (issueService_advances s _ _ _).emitted))

theorem headWakeRequest_advances (x : Byte) : s.Advances (s.headWakeRequest q x) := by
  unfold headWakeRequest
  have refused := fun st => refused_advances q st s
  split
  · exact refused _
  · exact (refused _).ite ((refused _).ite ((startWake_same _ _ _ s).advances (by decide)).emitted)

theorem startConfigRequest_advances (b : StartBody) : s.Advances (s.startConfigRequest q b) := by
  unfold startConfigRequest
  split
  · exact (refused_advances q _ s).ite (((onHead_advances _ _ s).withHead _ _).replied q _)
  · exact refused_advances q _ s

theorem headEventsRequest_advances (x : Byte) (e : Half) : s.Advances (s.headEventsRequest q x e) := by
  unfold headEventsRequest
  split
  · exact refused_advances q _ s
  · exact (refused_advances q _ s).ite ((onHead_advances _ _ s).replied q _)

theorem headStatusRequest_advances (x : Byte) : s.Advances (s.headStatusRequest q x) := by
  unfold headStatusRequest
  split
  · exact refused_advances q _ s
  · exact answered_advances q s _

theorem runRequestRequest_advances (x y : Byte) : s.Advances (s.runRequestRequest q x y) := by
  unfold runRequestRequest
  have refused := fun st => refused_advances q st s
  split
  · exact (refused _).ite ((refused _).ite ((join_advances _ _ s).answeredOk q _).settled)
  · exact refused _

theorem runCancelRequest_advances (x : Byte) : s.Advances (s.runCancelRequest q x) := by
  unfold runCancelRequest
  split
  · exact refused_advances q _ s
  · exact (refused_advances q _ s).ite ((withdraw_advances _ _ s).replied q _)

theorem arbiterSetRequest_advances (x : Byte) : s.Advances (s.arbiterSetRequest q x) := by
  unfold arbiterSetRequest
  split
  · exact refused_advances q _ s
  · exact (((onArbiter_same _ s).advances (by decide)).answeredOk q _).settled

theorem runAbortRequest_advances : s.Advances (s.runAbortRequest q) :=
  (refused_advances q _ s).ite (((abortRun_same _ s).advances (by decide)).replied q _)

theorem runDropHeadRequest_advances (x : Byte) : s.Advances (s.runDropHeadRequest q x) := by
  unfold runDropHeadRequest
  split
  · exact refused_advances q _ s
  · exact (refused_advances q _ s).ite ((dropHead_advances _ _ s).answeredOk q _).settled

theorem runSetMaskRequest_advances (x : Byte) : s.Advances (s.runSetMaskRequest q x) := by
  unfold runSetMaskRequest
  split
  · exact refused_advances q _ s
  · exact (refused_advances q _ s).ite ((onRun_advances _ s).replied q _)

theorem resumeRequest_advances : s.Advances (s.resumeRequest q) := by
  unfold resumeRequest
  split
  · exact ((resumeRun_advances _ _ s).answeredOk q _).settled
  · exact refused_advances q _ s

theorem feedResetRequest_advances : s.Advances (s.feedResetRequest q) :=
  (refused_advances q _ s).ite ((onRun_advances _ s).trans (sendSource_advances _ _)).emitted

theorem watchSetRequest_advances (b : WatchBody) : s.Advances (s.watchSetRequest q b) := by
  unfold watchSetRequest
  split
  · exact refused_advances q _ s
  · exact (onCapture_advances s rfl).replied q _

theorem watchReadRequest_advances (x : Byte) : s.Advances (s.watchReadRequest q x) := by
  unfold watchReadRequest
  split
  · exact refused_advances q _ s
  · exact answered_advances q s _

theorem tableReadRequest_advances (x y : Byte) (a : Half) (n : Byte) : s.Advances (s.tableReadRequest q x y a n) := by
  unfold tableReadRequest
  split
  · exact (answered_advances q s _).ite (refused_advances q _ s)
  · exact refused_advances q _ s

theorem siteResultRequest_advances (x y : Byte) : s.Advances (s.siteResultRequest q x y) := by
  unfold siteResultRequest
  split
  · exact answered_advances q s _
  · exact refused_advances q _ s

theorem analyseRequest_advances (x : Byte) (b : Half) (f : Byte) : s.Advances (s.analyseRequest q x b f) := by
  unfold analyseRequest
  have refused := fun st => refused_advances q st s
  split
  · exact (refused _).ite ((refused _).ite ((refused _).ite ((addJob_same _ s).advances (by decide)).served))
  · exact refused _

theorem binConfigRequest_advances (x y z : Byte) : s.Advances (s.binConfigRequest q x y z) := by
  unfold binConfigRequest
  split
  · exact (refused_advances q _ s).ite (((onBin_same _ _ s).advances (by decide)).replied q _)
  · exact refused_advances q _ s

theorem binStatusRequest_advances (x : Byte) : s.Advances (s.binStatusRequest q x) := by
  unfold binStatusRequest
  split
  · exact refused_advances q _ s
  · exact answered_advances q s _

end

/-! ## Requests that do more -/

/-- A slot that is not in use is written and the request is answered, whatever the port has become (R39, R42). -/
theorem writeSlot_effect {i : SlotId} (r : Option Plan) (q : Request) (f : ControlPort → ControlPort) {s : State}
    (free : s.useCount i = 0) : s.Effect (((s.onPort f).writeSlot i r).answerOk q []).emit :=
  .write i r free (Advances.replied (t := (s.writeSlot i r).onPort f) (onPort_advances f _) q [])

theorem planLoadRequest_effect (q : Request) (b : PlanBody) (p : ControlPort) (s : State) :
    s.Effect ((s.onPort fun _ => p).planLoadRequest q b) := by
  have refused := fun st => Effect.quiet ((onPort_advances (fun _ => p) s).trans (refused_advances q st _))
  unfold planLoadRequest
  split
  · exact refused _
  · split
    · exact refused _
    · rename_i free
      split
      · exact refused _
      · exact writeSlot_effect _ q _ (Decidable.not_not.mp free)

theorem planFreeRequest_effect (q : Request) (x : Byte) (p : ControlPort) (s : State) :
    s.Effect ((s.onPort fun _ => p).planFreeRequest q x) := by
  have refused := fun st => Effect.quiet ((onPort_advances (fun _ => p) s).trans (refused_advances q st _))
  unfold planFreeRequest
  split
  · exact refused _
  · split
    · exact refused _
    · rename_i free
      exact writeSlot_effect none q _ (Decidable.not_not.mp free)

/-- A bin frame goes, by delivery or by BIN_RELEASE (R167, R169). -/
theorem leaveBinWait_effect {s a : State} (h : HeadId) (x : BitVec 10)
    (bin : (s.head h).state = .binWait ∨ (s.bin h).frame.isSome = true) (before : s.Advances a)
    (same : a.sites = s.sites) : s.Effect (a.leaveBinWait h x) :=
  .release h bin ((before.trans ((onBin_same h _ a).advances (by decide))).withHead h _) same
    ((dropUse_advances _ _).trans (setHeadState_advances h _ _))

theorem binReleaseRequest_effect (q : Request) (x : Byte) (p : ControlPort) (s : State) :
    s.Effect ((s.onPort fun _ => p).binReleaseRequest q x) := by
  have refused := fun st => Effect.quiet ((onPort_advances (fun _ => p) s).trans (refused_advances q st _))
  unfold binReleaseRequest
  split
  · exact refused _
  · split
    · exact refused _
    · rename_i h _ waits
      exact (leaveBinWait_effect (s := s) h _ (.inl (Decidable.not_not.mp waits)) (onPort_advances _ s) rfl).andThen
        ((Advances.refl _).answeredOk q _).reported

/-- An edge of BCLK, which delivers the frame with its last cycle (R163, R166, R167). -/
theorem bclkTo_effect (h : HeadId) (l : LineLevel) (s : State) : s.Effect (s.bclkTo h l) := by
  have driven : s.Advances (s.onLines h fun x => { x with bclk := l }) := (onLines_same h _ s).advances (by decide)
  have shifted := fun f => driven.trans ((onBin_same h f _).advances (by decide))
  unfold bclkTo
  split
  · exact .quiet (.refl s)
  · simp only
    split
    · exact .quiet driven
    · rename_i frame present
      split
      · exact .quiet (shifted _)
      · split
        · exact (leaveBinWait_effect h _ (.inr (by rw [present]; rfl)) (shifted _) rfl).ite (.quiet (shifted _))
        · exact .quiet driven

theorem completeFrame_effect (h : HeadId) (s : State) : s.Effect (s.completeFrame h) := by
  have driven : s.Advances (s.onLines h fun l => { l with bclk := bclkIdle (s.bin h).format }) :=
    (onLines_same h _ s).advances (by decide)
  unfold completeFrame
  simp only
  split
  · rename_i frame present
    exact (leaveBinWait_effect h _ (.inr (by rw [present]; rfl)) driven rfl).andThen (Advances.refl _).reported
  · exact .quiet driven

theorem resetHeadState_advances (h : HeadId) (s : State) : s.Advances (s.resetHeadState h) := by
  unfold resetHeadState
  split
  · exact .refl s
  · exact (setHeadState_advances h _ s).withHead h _
  · exact setHeadState_advances h _ s

theorem resetLink_advances (h : HeadId) (s : State) : s.Advances (s.resetLink h) := by
  unfold resetLink
  split
  · exact onHead_advances h _ s
  · exact ((setLink_same h _ s).advances (by decide)).withHead h _
  · exact onHead_advances h _ s
  · exact .refl s

theorem answerAbandoned_advances (j : Option Job) (s : State) : s.Advances (s.answerAbandoned j) := by
  unfold answerAbandoned
  split
  · exact (Advances.refl s).answered _ _ _ _
  · exact .refl s

theorem abandonJob_advances (h : HeadId) (s : State) : s.Advances (s.abandonJob h) :=
  (onAlloc_same _ s).advances (by decide)

theorem resetSupply_advances (h : HeadId) (s : State) : s.Advances (s.resetSupply h) :=
  (Advances.refl s).ite (startSupply_advances h false .internal s)

theorem resetParts_effect {s a : State} (h : HeadId) (before : s.Advances a) : s.Effect (a.resetParts h) := by
  have emptied := (((before.trans (dropUse_advances (a.headSlot h) a)).trans
    ((unqueue_same h _).advances (by decide))).trans (abandonJob_advances h _)).trans
      ((onBin_same h BinPort.withdrawn _).advances (by decide))
  exact .clear h (fun i => (a.head h).enableSet.getLsbD i.val) emptied
    ((((onHead_advances h _ _).trans (resetSupply_advances h _)).trans (resetLink_advances h _)).trans
      (resetHeadState_advances h _))

theorem headResetRequest_effect (q : Request) (x : Byte) (p : ControlPort) (s : State) :
    s.Effect ((s.onPort fun _ => p).headResetRequest q x) := by
  unfold headResetRequest
  split
  · exact .quiet ((onPort_advances _ s).trans (refused_advances q _ _))
  · rename_i h _
    have dropped := (onPort_advances (fun _ => p) s).trans
      (((dropHead_advances h .reset (s.onPort fun _ => p)).ite (.refl _)) :
        Advances _ ((s.onPort fun _ => p).dropForReset h))
    exact (resetParts_effect h dropped).andThen (((answerAbandoned_advances _ _).trans
      ((answerCancelled_same h _ _ _).advances (by decide))).answeredOk q _).settled

theorem partResetRequest_effect (q : Request) (p : ControlPort) (s : State) :
    s.Effect ((s.onPort fun _ => p).partResetRequest q) :=
  .reset (((onPort_advances (fun _ => p.partReset q.tag) s.resetBlocks).replied q []))

/-! ## Fail words -/

/-- A site after the fail count and the watch check of a fail word (R6). -/
theorem watched_site (w : FailWord) (s : State) (h : HeadId) (i : SiteId) : (s.watched w).site h i =
    if h = w.head ∧ i = w.site then
      { s.site w.head w.site with failCount := satInc 65535 (s.site w.head w.site).failCount }
    else s.site h i := by
  have kept := watchCheck_same w (s.onSite w.head w.site fun c =>
    { c with failCount := satInc 65535 c.failCount }) .sites (by decide)
  exact (congrArg (fun v : Vector (Vector SiteContext 32) 4 => v[h][i]) kept).trans (onSite_site ..)

/-- The site of the fail word after its fail count and watch check (R6). -/
theorem watched_own (w : FailWord) (s : State) : (s.watched w).site w.head w.site =
    { s.site w.head w.site with failCount := satInc 65535 (s.site w.head w.site).failCount } :=
  (watched_site w s _ _).trans (if_pos ⟨rfl, rfl⟩)

/-- The fail count and the watch check of a fail word advance the part (R6, R22). -/
theorem watched_advances (w : FailWord) (s : State) : s.Advances (s.watched w) :=
  (onSite_advances (f := fun c => { c with failCount := satInc 65535 c.failCount }) w.head w.site
    ⟨rfl, rfl, rfl, id⟩).trans (watchCheck_advances w _)

theorem failTaken_effect {w : FailWord} {s : State} (testing : (s.site w.head w.site).state = .testing) :
    s.Effect (s.failTaken w) := by
  have watched := watched_advances w s
  have sites : ((s.watched w).site w.head w.site).state = .testing := by rw [watched_own]; exact testing
  show s.Effect ((s.watched w).failLookup w)
  unfold failLookup
  split
  · exact .quiet ((watched.trans (onSite_advances _ _ ⟨rfl, rfl, rfl, id⟩)).trans (handRaise_advances _ _ _ _))
  · unfold failInRegion
    split
    · exact .quiet watched
    · exact .quiet (watched.trans (onSite_advances _ _ ⟨rfl, rfl, rfl, id⟩))
    · exact (Effect.quiet watched).ite (.analyse w _ watched sites (.refl _))

/-- The words that pass the checks of R5 are those of TESTING sites. -/
theorem failChecked_testing {h : HeadId} {i k : Byte} {r c : Half} {s : State} {w : FailWord}
    (e : s.failChecked h i k r c = some w) : (s.site w.head w.site).state = .testing := by
  unfold failChecked at e
  split at e
  · exact absurd e (by simp)
  · split at e
    · rename_i checks
      obtain rfl := Option.some.inj e
      exact checks.2.2.2
    · exact absurd e (by simp)

theorem failFrame_effect (h : HeadId) (i k : Byte) (r c : Half) (waits : Bool) (s : State) :
    s.Effect (s.failFrame h i k r c waits) := by
  unfold failFrame
  split
  · rename_i w e
    have taken := failTaken_effect (failChecked_testing e)
    exact (taken.ite (taken.andThen (takeRaises_advances _))).andThen (Advances.refl _).emitted
  · exact .quiet (.refl s)

theorem serviceReplyFrame_advances (h : HeadId) (n : Byte) (r : ServiceResult) (v : Half) (s : State) :
    s.Advances (s.serviceReplyFrame h n r v) := by
  unfold serviceReplyFrame
  split
  · exact (endService_advances h _ _ s).settled.ite (.refl s)
  · exact .refl s

theorem supplyTripFrame_advances (h : HeadId) (s : State) : s.Advances (s.supplyTripFrame h) := by
  have tripped : s.Advances ((s.setSupply h .fault).raiseFlag h HeadFlag.supplyTrip) := (onHead_advances h _ s).withHead h _
  exact ((tripped.trans (dropHead_advances h _ _)).ite tripped).settled.ite (.refl s)

theorem headFrame_effect (h : HeadId) (f : Option HeadInput) (s : State) : s.Effect (s.headFrame h f) := by
  unfold headFrame
  split
  · exact .quiet (.refl s)
  · exact failFrame_effect h _ _ _ _ _ s
  · exact .quiet (passTallyFrame_advances h _ _ _ s)
  · exact .quiet (endTallyFrame_advances h s)
  · exact .quiet (serviceReplyFrame_advances h _ _ _ s)
  · exact .quiet (supplyTripFrame_advances h s)

/-! ## Events of a head -/

theorem serviceExpiry_advances (h : HeadId) (s : State) : s.Advances (s.serviceExpiry h) := by
  unfold serviceExpiry
  split
  · exact (endService_advances h _ _ s).settled
  · exact .refl s

theorem startLine_advances (h : HeadId) (l : LineLevel) (s : State) : s.Advances (s.startLine h l) :=
  (Advances.refl s).ite (((onLines_same h _ s).advances (by decide)).trans (filterChange_advances h l _)).settled

theorem candidateExpiry_advances (h : HeadId) (s : State) : s.Advances (s.candidateExpiry h) := by
  unfold candidateExpiry
  split
  · exact (recognise_advances h _ s).settled
  · exact .refl s

theorem reseekExpiry_advances (h : HeadId) (s : State) : s.Advances (s.reseekExpiry h) :=
  (((setLink_same h _ s).advances (by decide)).withHead h _).reported.ite (.refl s)

theorem staleExpiry_advances (h : HeadId) (s : State) : s.Advances (s.staleExpiry h) :=
  (((onBin_same h _ s).advances (by decide)).withHead h _).reported.ite (.refl s)

theorem frameSent_advances (s : State) : s.Advances s.frameSent := by
  unfold frameSent
  split
  · exact .refl s
  · exact ((onPort_advances _ s).trans ((onWire_same _ _).advances (by decide))).emitted

/-! ## Every command -/

/-- Every command has a next state, and what it does is one of the effects of a step. -/
theorem exec_effect (c : Instr) (s : State) : ∃ t, exec c s = .next t ∧ s.Effect t := by
  have request : ∀ {q owner}, (∀ t : State, t.Advances (owner t)) → s.Effect (takeRequest q owner s) :=
    fun h => takeRequest_quiet h s
  have quiet : ∀ {t : State}, s.Advances t → s.Effect t := .quiet
  have decoded : ∀ {h : HeadId} {t : State}, s.Effect t → s.Effect (if s.decodes h then t else s) :=
    fun e => e.ite (.quiet (.refl s))
  cases c with
  | powerOnReset => exact ⟨_, rfl, .reset (onPort_advances _ _)⟩
  | controlFrameReceive bytes => exact ⟨_, rfl, quiet (onPort_advances _ s).emitted⟩
  | controlByteDiscard byte => exact ⟨_, rfl, quiet (onPort_advances _ s).emitted⟩
  | requestHandOn => exact ⟨_, rfl, quiet (onPort_advances _ s)⟩
  | frameSent => exact ⟨_, rfl, quiet (frameSent_advances s)⟩
  | identify tag => exact ⟨_, rfl, request fun t => answered_advances _ t _⟩
  | status tag => exact ⟨_, rfl, request fun t => answered_advances _ t _⟩
  | configure tag body => exact ⟨_, rfl, request fun t => configureRequest_advances _ t body⟩
  | eventsRead tag body => exact ⟨_, rfl, request fun t => eventsReadRequest_advances _ t body⟩
  | partReset tag => exact ⟨_, rfl, takeRequest_effect fun p => partResetRequest_effect _ p s⟩
  | planLoad tag body => exact ⟨_, rfl, takeRequest_effect fun p => planLoadRequest_effect _ body p s⟩
  | planRead tag slot => exact ⟨_, rfl, request fun t => planReadRequest_advances _ t slot⟩
  | planFree tag slot => exact ⟨_, rfl, takeRequest_effect fun p => planFreeRequest_effect _ slot p s⟩
  | siteEnable tag head set => exact ⟨_, rfl, request fun t => siteEnableRequest_advances _ t head set⟩
  | headLink tag head e l m => exact ⟨_, rfl, request fun t => headLinkRequest_advances _ t head e l m⟩
  | linkShift tag head => exact ⟨_, rfl, request fun t => linkShiftRequest_advances _ t head⟩
  | supplySet tag head setting => exact ⟨_, rfl, request fun t => supplySetRequest_advances _ t head setting⟩
  | headAccess tag head d r v => exact ⟨_, rfl, request fun t => headAccessRequest_advances _ t head d r v⟩
  | headStandby tag head => exact ⟨_, rfl, request fun t => headStandbyRequest_advances _ t head⟩
  | headWake tag head => exact ⟨_, rfl, request fun t => headWakeRequest_advances _ t head⟩
  | startConfig tag body => exact ⟨_, rfl, request fun t => startConfigRequest_advances _ t body⟩
  | headEvents tag head e => exact ⟨_, rfl, request fun t => headEventsRequest_advances _ t head e⟩
  | headStatus tag head => exact ⟨_, rfl, request fun t => headStatusRequest_advances _ t head⟩
  | headReset tag head => exact ⟨_, rfl, takeRequest_effect fun p => headResetRequest_effect _ head p s⟩
  | runRequest tag head slot => exact ⟨_, rfl, request fun t => runRequestRequest_advances _ t head slot⟩
  | runCancel tag head => exact ⟨_, rfl, request fun t => runCancelRequest_advances _ t head⟩
  | arbiterSet tag enable => exact ⟨_, rfl, request fun t => arbiterSetRequest_advances _ t enable⟩
  | runAbort tag => exact ⟨_, rfl, request fun t => runAbortRequest_advances _ t⟩
  | runDropHead tag head => exact ⟨_, rfl, request fun t => runDropHeadRequest_advances _ t head⟩
  | runSetMask tag masks => exact ⟨_, rfl, request fun t => runSetMaskRequest_advances _ t masks⟩
  | resume tag => exact ⟨_, rfl, request fun t => resumeRequest_advances _ t⟩
  | runStatus tag => exact ⟨_, rfl, request fun t => answered_advances _ t _⟩
  | feedReset tag => exact ⟨_, rfl, request fun t => feedResetRequest_advances _ t⟩
  | watchSet tag body => exact ⟨_, rfl, request fun t => watchSetRequest_advances _ t body⟩
  | watchRead tag index => exact ⟨_, rfl, request fun t => watchReadRequest_advances _ t index⟩
  | tableRead tag head site a n => exact ⟨_, rfl, request fun t => tableReadRequest_advances _ t head site a n⟩
  | siteResult tag head site => exact ⟨_, rfl, request fun t => siteResultRequest_advances _ t head site⟩
  | analyse tag head budget force => exact ⟨_, rfl, request fun t => analyseRequest_advances _ t head budget force⟩
  | binConfig tag head f x => exact ⟨_, rfl, request fun t => binConfigRequest_advances _ t head f x⟩
  | binRelease tag head => exact ⟨_, rfl, takeRequest_effect fun p => binReleaseRequest_effect _ head p s⟩
  | binStatus tag head => exact ⟨_, rfl, request fun t => binStatusRequest_advances _ t head⟩
  | accept n => exact ⟨_, rfl, quiet (sourceMessage_advances _ s).emitted⟩
  | decline reason => exact ⟨_, rfl, quiet (sourceMessage_advances _ s).settled⟩
  | acceptTimeout => exact ⟨_, rfl, quiet (acceptExpiry_advances s)⟩
  | block payload => exact ⟨_, rfl, quiet (sourceMessage_advances _ s).emitted⟩
  | gateOpen limit => exact ⟨_, rfl, quiet (sourceMessage_advances _ s).emitted⟩
  | gateClose => exact ⟨_, rfl, quiet (sourceMessage_advances _ s).emitted⟩
  | endRecord => exact ⟨_, rfl, quiet (sourceMessage_advances _ s).emitted⟩
  | halted => exact ⟨_, rfl, quiet (sourceMessage_advances _ s).settled⟩
  | resetDone => exact ⟨_, rfl, quiet (sourceMessage_advances _ s).settled⟩
  | feedMessageIllFormed bytes => exact ⟨_, rfl, quiet (sourceMessage_advances _ s).settled⟩
  | haltTimeout => exact ⟨_, rfl, quiet (haltExpiry_advances s)⟩
  | feedResetTimeout => exact ⟨_, rfl, quiet (resetExpiry_advances s)⟩
  | tallyTimeoutDeciding => exact ⟨_, rfl, quiet (tallyExpiry_advances _ s)⟩
  | tallyTimeoutDraining => exact ⟨_, rfl, quiet (tallyExpiry_advances _ s)⟩
  | fail link site bank row column => exact ⟨_, rfl, decoded (failFrame_effect _ _ _ _ _ _ s)⟩
  | passTally head d p m => exact ⟨_, rfl, decoded (.quiet (passTallyFrame_advances head d p m s))⟩
  | endTally head => exact ⟨_, rfl, decoded (.quiet (endTallyFrame_advances head s))⟩
  | allocatorMove => exact ⟨_, rfl, quiet (engineMove_advances s).served⟩
  | binDelivery head => exact ⟨_, rfl, completeFrame_effect head s⟩
  | binStaleExpiry head => exact ⟨_, rfl, quiet (staleExpiry_advances head s)⟩
  | startLineChange head level => exact ⟨_, rfl, quiet (startLine_advances head level s)⟩
  | startCandidateExpiry head => exact ⟨_, rfl, quiet (candidateExpiry_advances head s)⟩
  | alignMarkPlaced head => exact ⟨_, rfl, quiet ((placedMark_same head s).advances (by decide)).settled⟩
  | alignMarkMisplaced head position => exact ⟨_, rfl, quiet (misplacedMark_advances head position s).settled⟩
  | signalLoss head => exact ⟨_, rfl, quiet (lossOfSignal_advances head s).settled⟩
  | reseekTimerExpiry head => exact ⟨_, rfl, quiet (reseekExpiry_advances head s)⟩
  | headFrameDiscard head bytes =>
    exact ⟨_, rfl, decoded ((headFrame_effect head _ s).andThen ((onHead_advances head _ _).ite (.refl _)))⟩
  | serviceReply head n r v => exact ⟨_, rfl, decoded (.quiet (serviceReplyFrame_advances head n r v s))⟩
  | serviceTimeout head => exact ⟨_, rfl, quiet (serviceExpiry_advances head s)⟩
  | supplyTrip head => exact ⟨_, rfl, decoded (.quiet (supplyTripFrame_advances head s))⟩
  | bclkEdge head level => exact ⟨_, rfl, (bclkTo_effect head level s).andThen (Advances.refl _).reported⟩

/-- A step is the command at the front of the queue, or the oldest word's raises being taken. -/
theorem step_effect {s t : State} (h : step s = .next t) : (∃ q, (s.withPending q).Effect t) := by
  unfold step at h
  split at h
  · obtain rfl := Host.Outcome.next.inj h
    exact ⟨s.pending, .quiet (takeOldestRaises_advances s)⟩
  · rename_i c rest _
    obtain ⟨u, run, effect⟩ := exec_effect c (s.withPending rest)
    rw [run] at h
    exact ⟨rest, Host.Outcome.next.inj h ▸ effect⟩

end State
end Sys2Proof.Machine
end

section
/-!
The Fail Table as the laws see it: its first two laws as a property of the table alone, how many entries of a kind it
holds after a write, a freeing or a hit, and the one shape of every entry that a fail word adds (R2, R3, R12 to R14).
-/

namespace Sys2Proof.Machine

/-! ## Keys -/

theorem Entry.ofRegion_iff {h : HeadId} {i : SiteId} {k : Nat} {e : Entry} :
    e.ofRegion h i k = true ↔ e.head = h ∧ e.site = i ∧ e.region = k := by
  simp [Entry.ofRegion, Entry.ofSite, and_assoc]

theorem Entry.ofSite_iff {h : HeadId} {i : SiteId} {e : Entry} : e.ofSite h i = true ↔ e.head = h ∧ e.site = i := by
  simp [Entry.ofSite]

theorem Entry.sameRegion_iff {a b : Entry} : a.sameRegion b = true ↔ b.ofRegion a.head a.site a.region = true := by
  simp only [Entry.ofRegion_iff, Entry.sameRegion, Bool.and_eq_true, beq_iff_eq, and_assoc]
  exact ⟨fun ⟨h, i, k⟩ => ⟨h.symm, i.symm, k.symm⟩, fun ⟨h, i, k⟩ => ⟨h.symm, i.symm, k.symm⟩⟩

theorem Entry.sameRegion_symm {a b : Entry} (h : a.sameRegion b = true) : b.sameRegion a = true := by
  simp only [Entry.sameRegion, Bool.and_eq_true, beq_iff_eq] at h ⊢
  exact ⟨⟨h.1.1.symm, h.1.2.symm⟩, h.2.symm⟩

namespace EntryKey

/-- A ROW_LINE. -/
def isRow : EntryKey → Bool
  | .rowLine _ => true
  | _ => false

/-- A COL_LINE. -/
def isColumn : EntryKey → Bool
  | .colLine _ => true
  | _ => false

theorem covers_self (k : EntryKey) : k.covers k = false := by cases k <;> rfl

theorem cellInRow_iff {r : Half} {k : EntryKey} : k.cellInRow r = true ↔ ∃ c, k = .cell r c := by
  cases k <;> simp [cellInRow]

theorem cellInColumn_iff {c : Half} {k : EntryKey} : k.cellInColumn c = true ↔ ∃ r, k = .cell r c := by
  cases k <;> simp [cellInColumn]

/-- What covers a cell is the line of its row or of its column. -/
theorem covers_cell {k : EntryKey} {r c : Half} (h : k.covers (.cell r c) = true) : k = .rowLine r ∨ k = .colLine c := by
  cases k <;> simp_all [covers, cellInRow, cellInColumn]

/-- Nothing covers a line. -/
theorem covers_row (k : EntryKey) (r : Half) : k.covers (.rowLine r) = false := by cases k <;> rfl

theorem covers_column (k : EntryKey) (c : Half) : k.covers (.colLine c) = false := by cases k <;> rfl

end EntryKey

namespace FailTable

/-! ## Counting entries -/

theorem heldBy_eq (h : HeadId) (i : SiteId) (t : FailTable) : t.heldBy h i = t.countP fun x => x.2.ofSite h i :=
  List.countP_eq_length_filter.symm

theorem rowLines_eq (h : HeadId) (i : SiteId) (k : Nat) (t : FailTable) :
    t.rowLines h i k = t.countP fun x => x.2.ofRegion h i k && x.2.key.isRow := by
  rw [List.countP_eq_length_filter]
  refine congrArg List.length (List.filter_congr fun x _ => congrArg _ ?_)
  cases x.2.key <;> rfl

theorem colLines_eq (h : HeadId) (i : SiteId) (k : Nat) (t : FailTable) :
    t.colLines h i k = t.countP fun x => x.2.ofRegion h i k && x.2.key.isColumn := by
  rw [List.countP_eq_length_filter]
  refine congrArg List.length (List.filter_congr fun x _ => congrArg _ ?_)
  cases x.2.key <;> rfl

/-- An entry written at a FREE index joins the others. -/
theorem write_perm {i : Nat} {e : Entry} {t : FailTable} (free : ∀ x ∈ t, x.1 ≠ i) : (write i e t).Perm ((i, e) :: t) := by
  induction t with
  | nil => exact .refl _
  | cons y t ih =>
    obtain ⟨j, f⟩ := y
    unfold write
    split
    · exact .refl _
    · rw [if_neg fun h => free (j, f) (List.mem_cons_self ..) h.symm]
      exact ((ih fun x hx => free x (List.mem_cons_of_mem _ hx)).cons _).trans (.swap ..)

/-- How many entries of a kind there are once some are freed and one is written. -/
theorem countP_write_free (q : Nat × Entry → Bool) {p : Entry → Bool} {i : Nat} {e : Entry} {t : FailTable}
    (free : ∀ x ∈ t, x.1 = i → p x.2 = true) :
    (write i e (t.free p)).countP q + t.countP (fun x => q x && p x.2) = t.countP q + if q (i, e) then 1 else 0 := by
  have gone : ∀ x ∈ t.free p, x.1 ≠ i := fun x hx h => by
    obtain ⟨mem, kept⟩ := List.mem_filter.mp hx
    simp [free x mem h] at kept
  have split_ := List.countP_eq_countP_filter_add t q fun x => p x.2
  rw [(write_perm gone).countP_eq, List.countP_cons]
  simp only [List.countP_filter] at split_
  have kept : (t.free p).countP q = t.countP fun x => q x && !p x.2 := List.countP_filter
  rw [kept]
  omega

/-- How many entries of a kind there are once some are freed. -/
theorem countP_free (q : Nat × Entry → Bool) {p : Entry → Bool} {t : FailTable}
    (h : ∀ x ∈ t, q x = true → p x.2 = false) : (t.free p).countP q = t.countP q := by
  unfold FailTable.free
  rw [List.countP_filter]
  refine List.countP_congr fun x hx => ?_
  by_cases y : q x = true
  · simp [y, h x hx y]
  · simp [y]

/-- A hit changes the number of no kind of entries that does not look at hits. -/
theorem countP_setHits (q : Nat × Entry → Bool) (h : ∀ j (e : Entry) n, q (j, { e with hits := n }) = q (j, e)) (i n : Nat)
    (t : FailTable) : (t.setHits i n).countP q = t.countP q := by
  unfold setHits
  rw [List.countP_map]
  refine List.countP_congr fun x _ => ?_
  simp only [Function.comp]
  split
  · rw [h]
  · rfl

/-! ## The first two laws -/

/-- The canonical form, and the first and second laws (R1, R2). -/
structure Sound (t : FailTable) : Prop where
  canonical : t.wf = true
  keys : ∀ x ∈ t, ∀ y ∈ t, x.2.sameRegion y.2 = true → x.2.key = y.2.key → x = y
  uncovered : ∀ x ∈ t, ∀ y ∈ t, x.2.sameRegion y.2 = true → x.2.key.covers y.2.key = false

theorem sound_nil : FailTable.Sound [] := ⟨rfl, fun _ h => absurd h (by simp), fun _ h => absurd h (by simp)⟩

theorem Sound.free (p : Entry → Bool) {t : FailTable} (s : t.Sound) : (t.free p).Sound where
  canonical := wf_free p s.canonical
  keys x hx y hy := s.keys x (List.mem_of_mem_filter hx) y (List.mem_of_mem_filter hy)
  uncovered x hx y hy := s.uncovered x (List.mem_of_mem_filter hx) y (List.mem_of_mem_filter hy)

/-- An entry of a canonical table is the only one at its index. -/
theorem eq_of_index {t : FailTable} (w : t.wf = true) {x y : Nat × Entry} (hx : x ∈ t) (hy : y ∈ t) (h : x.1 = y.1) :
    x = y := by
  have r := (wf_iff.mp w).1
  have a := (read_some_iff (j := x.1) (e := x.2) r).mpr hx
  have b := (read_some_iff (j := y.1) (e := y.2) r).mpr hy
  rw [h, b] at a
  exact Prod.ext h (Option.some.inj a).symm

theorem Sound.setHits (i n : Nat) {t : FailTable} (s : t.Sound) : (t.setHits i n).Sound := by
  have same : ∀ x : Nat × Entry, ∀ b : Entry, let y := if x.1 = i then (x.1, { x.2 with hits := n }) else x
      y.1 = x.1 ∧ y.2.key = x.2.key ∧ y.2.sameRegion b = x.2.sameRegion b ∧ b.sameRegion y.2 = b.sameRegion x.2 := by
    intro x b
    simp only
    split <;> exact ⟨rfl, rfl, rfl, rfl⟩
  refine ⟨wf_setHits i n s.canonical, fun x hx y hy region key => ?_, fun x hx y hy region => ?_⟩
  all_goals
    obtain ⟨x, mx, rfl⟩ := List.mem_map.mp hx
    obtain ⟨y, my, rfl⟩ := List.mem_map.mp hy
    rw [(same x _).2.2.1, (same y _).2.2.2] at region
  · rw [(same x x.2).2.1, (same y y.2).2.1] at key
    rw [s.keys x mx y my region key]
  · rw [(same x x.2).2.1, (same y y.2).2.1]
    exact s.uncovered x mx y my region

/-- An entry that no other repeats, covers or is covered by joins a sound table. -/
theorem Sound.write {i : Nat} {e : Entry} {t : FailTable} (s : t.Sound) (index : i < 4096)
    (new : ∀ x ∈ t, x.2.sameRegion e = true →
      x.2.key ≠ e.key ∧ x.2.key.covers e.key = false ∧ e.key.covers x.2.key = false) : (FailTable.write i e t).Sound where
  canonical := wf_write index e s.canonical
  keys x hx y hy region key := by
    rcases mem_write hx with rfl | mx <;> rcases mem_write hy with rfl | my
    · rfl
    · exact absurd key.symm (new y my (Entry.sameRegion_symm region)).1
    · exact absurd key (new x mx region).1
    · exact s.keys x mx y my region key
  uncovered x hx y hy region := by
    rcases mem_write hx with rfl | mx <;> rcases mem_write hy with rfl | my
    · exact EntryKey.covers_self _
    · exact (new y my (Entry.sameRegion_symm region)).2.2
    · exact (new x mx region).2.1
    · exact s.uncovered x mx y my region

end FailTable

theorem TableLaws.sound {s : State} (l : TableLaws s) : s.capture.table.Sound := ⟨l.canonical, l.keys, l.uncovered⟩

/-- The laws of the table from those of the table alone and the count of each site. -/
theorem TableLaws.of_sound {s : State} (a : s.capture.table.Sound)
    (counted : ∀ h i, (s.site h i).entriesHeld = s.capture.table.heldBy h i)
    (rested : ∀ h i, (s.site h i).atRest = true → (s.site h i).entriesHeld = 0) : TableLaws s :=
  ⟨a.canonical, a.keys, a.uncovered, counted, rested⟩

/-! ## The entry that a fail word adds -/

namespace State

/-- The entries of the site and region whose keys the new entry takes in. -/
def cellsUnder (w : FailWord) (k : Nat) (covered : EntryKey → Bool) (s : State) : FailTable :=
  s.capture.table.filter fun x => x.2.ofRegion w.head w.site k && covered x.2.key

/-- An entry of the site and region is written, the cells it takes in are freed, and the site holds one more entry and
those fewer; `paid` is what the entry takes from the spares (R12 to R14, R16). -/
def enter (w : FailWord) (k i hits : Nat) (key : EntryKey) (covered : EntryKey → Bool) (paid : SiteContext → SiteContext)
    (s : State) : State :=
  (s.withTable ((s.capture.table.free fun e => e.ofRegion w.head w.site k && covered e.key).write i
    ⟨w.head, w.site, k, key, hits⟩)).onSite w.head w.site fun c =>
      paid { c with entriesHeld := c.entriesHeld + 1 - (s.cellsUnder w k covered).length }

section
variable (w : FailWord) (k : Nat) (key : EntryKey) (covered : EntryKey → Bool) (paid : SiteContext → SiteContext)
  (take : Spares → Spares) {s : State}

/-- At the quota a new entry is not made, and QUOTA is raised (R16, R17). -/
theorem newEntry_quota
    (h : some (s.site w.head w.site).entriesHeld = (s.sitePlan (s.site w.head w.site)).map Plan.quota) :
    s.newEntry w k key paid = s.handRaise w .quota (some k) := by
  simp only [newEntry, h, if_true]

/-- With no FREE entry a new entry is not made, and TABLE_FULL is raised (R16, R18). -/
theorem newEntry_full
    (h : some (s.site w.head w.site).entriesHeld ≠ (s.sitePlan (s.site w.head w.site)).map Plan.quota)
    (full : s.capture.table.lowestFree = none) : s.newEntry w k key paid = s.handRaise w .tableFull (some k) := by
  simp only [newEntry, h, if_false, full]

/-- Otherwise the new entry stands in the FREE entry of lowest index (R16). -/
theorem newEntry_enters
    (h : some (s.site w.head w.site).entriesHeld ≠ (s.sitePlan (s.site w.head w.site)).map Plan.quota) {i : Nat}
    (free : s.capture.table.lowestFree = some i) (none_ : s.cellsUnder w k covered = []) :
    s.newEntry w k key paid = s.enter w k i 1 key covered paid := by
  have kept : (s.capture.table.free fun e => e.ofRegion w.head w.site k && covered e.key) = s.capture.table :=
    List.filter_eq_self.mpr fun x hx => by
      have keep := List.filter_eq_nil_iff.mp none_ x hx
      simp only [Bool.not_eq_true] at keep
      simp only [keep, Bool.not_false]
  simp only [newEntry, h, if_false, free, enter, kept, none_, List.length_nil, Nat.sub_zero]
  rfl

/-- A promotion that frees no cell is a new entry (R14). -/
theorem promote_nil (none_ : s.cellsUnder w k covered = []) :
    s.promote w k key covered take = s.newEntry w k key (SiteContext.onSpares k take) := by
  unfold cellsUnder at none_
  simp only [promote, none_]

/-- A promotion puts its line in the place of the first cell that it frees (R12 to R14). -/
theorem promote_enters {x : Nat × Entry} {rest : FailTable} (cells : s.cellsUnder w k covered = x :: rest) :
    s.promote w k key covered take =
      s.enter w k x.1 (Nat.min 255 (((s.cellsUnder w k covered).map fun y => y.2.hits).sum + 1)) key covered
        (SiteContext.onSpares k take) := by
  have count : ∀ n : Nat, n - (rest.length + 1 - 1) = n + 1 - (rest.length + 1) := fun n => by omega
  unfold enter
  rw [cells]
  unfold cellsUnder at cells
  simp only [promote, cells, List.length_cons, count]
  rfl

end

/-- What an added entry is: a learned cell, or the line of a row or a column, paid with a spare that is left. -/
inductive Adds (w : FailWord) (k : Nat) (c : SiteContext) : EntryKey → (EntryKey → Bool) → (SiteContext → SiteContext) → Prop
  | cell : Adds w k c (.cell w.row w.column) (fun _ => false) id
  | row : 0 < (c.sparesOf k).rows →
      Adds w k c (.rowLine w.row) (EntryKey.cellInRow w.row) (SiteContext.onSpares k Spares.takeRow)
  | column : 0 < (c.sparesOf k).columns →
      Adds w k c (.colLine w.column) (EntryKey.cellInColumn w.column) (SiteContext.onSpares k Spares.takeColumn)

/-- Where an added entry stands: in place of the first cell it takes in, or in the FREE entry of lowest index when there
is none; on a fail that no entry covers, and not at the quota when it frees no cell. -/
structure HasRoom (w : FailWord) (k i : Nat) (covered : EntryKey → Bool) (s : State) : Prop where
  place : s.cellsUnder w k covered = [] ∧ s.capture.table.lowestFree = some i ∨
    ∃ x rest, s.cellsUnder w k covered = x :: rest ∧ x.1 = i
  uncovered : s.Uncovered w k
  quota : s.cellsUnder w k covered = [] →
    some (s.site w.head w.site).entriesHeld ≠ (s.sitePlan (s.site w.head w.site)).map Plan.quota

/-- In a canonical table the place is an index that is FREE once the cells taken in are. -/
theorem HasRoom.free {w : FailWord} {k i : Nat} {covered : EntryKey → Bool} {s : State} (room : s.HasRoom w k i covered)
    (canonical : s.capture.table.wf = true) : i < 4096 ∧
      ∀ x ∈ s.capture.table, x.1 = i → (x.2.ofRegion w.head w.site k && covered x.2.key) = true := by
  rcases room.place with ⟨_, lowest⟩ | ⟨x, rest, cells, rfl⟩
  · obtain ⟨index, free, _⟩ := (FailTable.lowestFree_iff canonical i).mp lowest
    exact ⟨index, fun x hx h => absurd h (FailTable.read_none_iff.mp free x hx)⟩
  · have first : x ∈ s.cellsUnder w k covered := cells ▸ List.mem_cons_self ..
    obtain ⟨mem, freed⟩ := List.mem_filter.mp first
    refine ⟨(FailTable.wf_iff.mp canonical).2 x mem, fun y hy h => ?_⟩
    rw [FailTable.eq_of_index canonical hy mem h]
    exact freed

/-- What a fail word on the path of an ANALYSE region makes: a hit, a raise, the mark no_repair, or an added entry
(R10 to R18). -/
inductive Path (w : FailWord) (k : Nat) (s : State) : State → Prop
  | hit (limit : Nat) (x : Nat × Entry) : Path w k s (s.addHit limit x)
  | raise (c : FailCause) : Path w k s (s.handRaise w c (some k))
  | mark : Path w k s (s.markNoRepair w)
  | add {key : EntryKey} {covered : EntryKey → Bool} {paid : SiteContext → SiteContext} (i hits : Nat) :
      Adds w k (s.site w.head w.site) key covered paid → s.HasRoom w k i covered →
      Path w k s (s.enter w k i hits key covered paid)

theorem newEntry_path {w : FailWord} {k : Nat} {s : State} {key : EntryKey} {covered : EntryKey → Bool}
    {paid : SiteContext → SiteContext} (open_ : s.Uncovered w k)
    (none_ : s.cellsUnder w k covered = []) (adds : Adds w k (s.site w.head w.site) key covered paid) :
    Path w k s (s.newEntry w k key paid) := by
  by_cases quota : some (s.site w.head w.site).entriesHeld = (s.sitePlan (s.site w.head w.site)).map Plan.quota
  · rw [newEntry_quota w k key paid quota]
    exact .raise _
  · cases place : s.capture.table.lowestFree with
    | none =>
      rw [newEntry_full w k key paid quota place]
      exact .raise _
    | some i =>
      rw [newEntry_enters w k key covered paid quota place none_]
      exact .add i 1 adds ⟨.inl ⟨none_, place⟩, open_, fun _ => quota⟩

theorem promote_path {w : FailWord} {k : Nat} {s : State} {key : EntryKey} {covered : EntryKey → Bool}
    {take : Spares → Spares} (open_ : s.Uncovered w k)
    (adds : Adds w k (s.site w.head w.site) key covered (SiteContext.onSpares k take)) :
    Path w k s (s.promote w k key covered take) := by
  cases cells : s.cellsUnder w k covered with
  | nil =>
    rw [promote_nil w k key covered take cells]
    exact newEntry_path open_ cells adds
  | cons x rest =>
    rw [promote_enters w k key covered take cells]
    exact .add x.1 _ adds ⟨.inr ⟨x, rest, cells, rfl⟩, open_, fun e => absurd (cells.symm.trans e) (by simp)⟩

theorem columnStep_path {w : FailWord} {k : Nat} {s : State} (open_ : s.Uncovered w k) : Path w k s (s.columnStep w k) := by
  have none_ : s.cellsUnder w k (fun _ => false) = [] := by simp [cellsUnder]
  unfold columnStep
  simp only
  split
  · exact newEntry_path open_ none_ .cell
  · split
    · exact .mark
    · rename_i left
      exact promote_path open_ (.column (Nat.pos_of_ne_zero left))

theorem rowStep_path {w : FailWord} {k : Nat} {s : State} (open_ : s.Uncovered w k) : Path w k s (s.rowStep w k) := by
  unfold rowStep
  simp only
  split
  · exact columnStep_path open_
  · split
    · exact .mark
    · rename_i left
      exact promote_path open_ (.row (Nat.pos_of_ne_zero left))

/-- An entry of the site and region is looked up by its key. -/
theorem lookup_none {w : FailWord} {k : Nat} {s : State} {key : EntryKey}
    (h : s.capture.table.lookup w.head w.site k key = none) :
    ∀ x ∈ s.capture.table, x.2.ofRegion w.head w.site k = true → x.2.key ≠ key := fun x hx region e => by
  have := List.find?_eq_none.mp h x hx
  simp [region, e] at this

theorem analysePath_path (w : FailWord) (k : Nat) (s : State) :
    Path w k s (s.analysePath w k) := by
  unfold analysePath
  simp only
  split
  · exact .hit _ _
  · rename_i row
    split
    · exact .hit _ _
    · rename_i column
      split
      · exact .hit _ _
      · rename_i cell
        exact rowStep_path fun x hx region =>
          ⟨lookup_none row x hx region, lookup_none column x hx region, lookup_none cell x hx region⟩

end State
end Sys2Proof.Machine
end

section
/-!
Every step keeps the laws of the Fail Table (R1 to R3): each effect of a step keeps them.
-/

namespace Sys2Proof.Machine

open State

/-! ## Updates of a site with the table -/

section
variable (t : FailTable) (s : State)

@[simp] theorem State.withTable_site (h : HeadId) (i : SiteId) : (s.withTable t).site h i = s.site h i := rfl
@[simp] theorem State.withTable_table : (s.withTable t).capture.table = t := rfl
@[simp] theorem State.withTable_planAt : (s.withTable t).planAt = s.planAt := rfl

end

/-- What an added entry takes from its site leaves the count of the site, its mark, and whether it is at rest. -/
theorem State.Adds.paid_same {w : FailWord} {k : Nat} {b : SiteContext} {key : EntryKey} {covered : EntryKey → Bool}
    {paid : SiteContext → SiteContext} (a : Adds w k b key covered paid) (c : SiteContext) :
    (paid c).atRest = c.atRest ∧ (paid c).entriesHeld = c.entriesHeld ∧ (paid c).noRepair = c.noRepair := by
  cases a <;> exact ⟨rfl, rfl, rfl⟩

/-- The keys that an added entry takes in are cells. -/
theorem State.Adds.covered_cell {w : FailWord} {k : Nat} {b : SiteContext} {key : EntryKey} {covered : EntryKey → Bool}
    {paid : SiteContext → SiteContext} (a : Adds w k b key covered paid) {x : EntryKey} (h : covered x = true) :
    ∃ r c, x = .cell r c := by
  cases a with
  | cell => exact absurd h (by simp)
  | row _ => exact ⟨_, EntryKey.cellInRow_iff.mp h⟩
  | column _ =>
    obtain ⟨r, e⟩ := EntryKey.cellInColumn_iff.mp h
    exact ⟨r, _, e⟩

/-- An entry left beside an added one neither repeats nor covers it, and is not covered by it. -/
theorem State.Adds.new {w : FailWord} {k : Nat} {b : SiteContext} {key : EntryKey} {covered : EntryKey → Bool}
    {paid : SiteContext → SiteContext} (a : Adds w k b key covered paid) {x : EntryKey}
    (open_ : x ≠ .rowLine w.row ∧ x ≠ .colLine w.column ∧ x ≠ .cell w.row w.column) (kept : covered x = false) :
    x ≠ key ∧ x.covers key = false ∧ key.covers x = false := by
  obtain ⟨row, column, cell⟩ := open_
  cases a with
  | cell =>
    refine ⟨cell, ?_, rfl⟩
    by_contra h
    rcases EntryKey.covers_cell (Bool.not_eq_false _ ▸ h) with e | e
    · exact row e
    · exact column e
  | row _ => exact ⟨row, EntryKey.covers_row _ _, kept⟩
  | column _ => exact ⟨column, EntryKey.covers_column _ _, kept⟩

/-! ## Each effect -/

namespace TableLaws

theorem advances {s t : State} (l : TableLaws s) (a : s.Advances t) : TableLaws t := by
  have held : ∀ h i, (t.site h i).entriesHeld = (s.site h i).entriesHeld := fun h i => by
    rcases a.sites h i with x | x
    · exact x.held
    · rw [x.held, l.rested h i x.rested]
  refine .of_sound (a.table ▸ l.sound) (fun h i => ?_) fun h i rest => ?_
  · rw [held, a.table, l.counted]
  · rcases a.sites h i with x | x
    · rw [held, l.rested h i (x.rest rest)]
    · exact x.held

theorem resetBlocks (s : State) : TableLaws s.resetBlocks := by
  have blank : ∀ h i, s.resetBlocks.site h i = .blank .off := fun h i => by
    simp [State.resetBlocks, State.site, State.reset]
  refine .of_sound FailTable.sound_nil (fun h i => ?_) fun h i _ => ?_ <;> rw [blank] <;> rfl

theorem addHit {s : State} (l : TableLaws s) (n : Nat) (x : Nat × Entry) : TableLaws (s.addHit n x) := by
  refine .of_sound (l.sound.setHits _ _) (fun h i => ?_) l.rested
  refine (l.counted h i).trans ?_
  rw [FailTable.heldBy_eq, FailTable.heldBy_eq]
  exact (FailTable.countP_setHits _ (fun _ _ _ => rfl) _ _ _).symm

/-- Entries are freed, and each site is left with a state as before and the entries that it then holds. -/
theorem freed {s t : State} (l : TableLaws s) (p : Entry → Bool) (table : t.capture.table = s.capture.table.free p)
    (sites : ∀ h i, (t.site h i).entriesHeld = 0 ∧ (∀ e : Entry, e.ofSite h i = true → p e = true) ∨
      t.site h i = s.site h i ∧ ∀ e : Entry, e.ofSite h i = true → p e = false) : TableLaws t := by
  refine .of_sound (table ▸ l.sound.free p) (fun h i => ?_) fun h i rest => ?_
  · rw [table, FailTable.heldBy_eq]
    rcases sites h i with ⟨zero, all⟩ | ⟨same, none_⟩
    · rw [zero, eq_comm, List.countP_eq_zero]
      intro x hx site
      simpa [all _ site] using (List.mem_filter.mp hx).2
    · rw [same, l.counted, FailTable.heldBy_eq, FailTable.countP_free _ fun x _ => none_ x.2]
  · rcases sites h i with ⟨zero, _⟩ | ⟨same, _⟩
    · exact zero
    · rw [same] at rest ⊢
      exact l.rested h i rest

theorem markNoRepair {s : State} (l : TableLaws s) (w : FailWord) : TableLaws (s.markNoRepair w) := by
  refine l.freed (Entry.ofSite w.head w.site) rfl fun h i => ?_
  simp only [State.markNoRepair, onSite_site, onCapture_site]
  by_cases e : h = w.head ∧ i = w.site
  · obtain ⟨rfl, rfl⟩ := e
    rw [if_pos ⟨rfl, rfl⟩]
    exact .inl ⟨rfl, fun _ x => x⟩
  · rw [if_neg e]
    refine .inr ⟨rfl, fun x site => ?_⟩
    obtain ⟨rfl, rfl⟩ := Entry.ofSite_iff.mp site
    exact Bool.eq_false_iff.mpr fun y => e (Entry.ofSite_iff.mp y)

/-- An entry of the head of a site. -/
theorem ofSite_head {h k : HeadId} {i : SiteId} {e : Entry} (site : e.ofSite k i = true) : (e.head == h) = decide (k = h) := by
  obtain ⟨rfl, _⟩ := Entry.ofSite_iff.mp site
  rfl

theorem releaseSites {s : State} (l : TableLaws s) (h : HeadId) : TableLaws (s.releaseSites h) := by
  refine l.freed (fun e => e.head == h) rfl fun k i => ?_
  have site : (s.releaseSites h).site k i = if k = h then (s.site h i).release else s.site k i := mapSites_site ..
  rw [site]
  by_cases e : k = h
  · rw [if_pos e]
    refine .inl ⟨?_, fun x y => (ofSite_head y).trans (decide_eq_true e)⟩
    unfold SiteContext.release
    split <;> rfl
  · rw [if_neg e]
    exact .inr ⟨rfl, fun x y => (ofSite_head y).trans (decide_eq_false e)⟩

theorem clearSites {s : State} (l : TableLaws s) (h : HeadId) (on : SiteId → Bool) :
    TableLaws ((s.clearCapture h).mapSites h fun i _ => SiteContext.afterReset (on i)) := by
  refine l.freed (fun e => e.head == h) rfl fun k i => ?_
  rw [mapSites_site]
  by_cases e : k = h
  · rw [if_pos e]
    exact .inl ⟨rfl, fun x y => (ofSite_head y).trans (decide_eq_true e)⟩
  · rw [if_neg e]
    exact .inr ⟨rfl, fun x y => (ofSite_head y).trans (decide_eq_false e)⟩

/-- A site after an entry was added. -/
theorem enter_site (w : FailWord) (k i hits : Nat) (key : EntryKey) (covered : EntryKey → Bool)
    (paid : SiteContext → SiteContext) (s : State) (h : HeadId) (j : SiteId) :
    (s.enter w k i hits key covered paid).site h j =
      if h = w.head ∧ j = w.site then
        paid { s.site w.head w.site with
          entriesHeld := (s.site w.head w.site).entriesHeld + 1 - (s.cellsUnder w k covered).length }
      else s.site h j := onSite_site ..

/-- The entries of a site after one was added. -/
theorem enter_heldBy {w : FailWord} {k i : Nat} {covered : EntryKey → Bool} {s : State} (l : TableLaws s)
    (room : s.HasRoom w k i covered) (hits : Nat) (key : EntryKey) (paid : SiteContext → SiteContext) (h : HeadId) (j : SiteId) :
    (s.enter w k i hits key covered paid).capture.table.heldBy h j = if h = w.head ∧ j = w.site then
      s.capture.table.heldBy h j + 1 - (s.cellsUnder w k covered).length else s.capture.table.heldBy h j := by
  have count := FailTable.countP_write_free (e := ⟨w.head, w.site, k, key, hits⟩) (fun x => x.2.ofSite h j)
    (p := fun e => e.ofRegion w.head w.site k && covered e.key) (room.free l.canonical).2
  have table : (s.enter w k i hits key covered paid).capture.table = FailTable.write i ⟨w.head, w.site, k, key, hits⟩
    (s.capture.table.free fun e => e.ofRegion w.head w.site k && covered e.key) := rfl
  rw [table, FailTable.heldBy_eq, FailTable.heldBy_eq]
  split
  · rename_i e
    obtain ⟨rfl, rfl⟩ := e
    have cells : s.capture.table.countP (fun x => x.2.ofSite w.head w.site &&
        (x.2.ofRegion w.head w.site k && covered x.2.key)) = (s.cellsUnder w k covered).length := by
      rw [State.cellsUnder, ← List.countP_eq_length_filter]
      refine List.countP_congr fun x _ => ?_
      simp only [Entry.ofRegion, Bool.and_eq_true]
      tauto
    have mine : (⟨w.head, w.site, k, key, hits⟩ : Entry).ofSite w.head w.site = true := Entry.ofSite_iff.mpr ⟨rfl, rfl⟩
    rw [cells, if_pos mine] at count
    exact Nat.eq_sub_of_add_eq count
  · rename_i e
    have cells : s.capture.table.countP (fun x => x.2.ofSite h j &&
        (x.2.ofRegion w.head w.site k && covered x.2.key)) = 0 := List.countP_eq_zero.mpr fun x _ both => by
      simp only [Bool.and_eq_true, Entry.ofSite_iff, Entry.ofRegion_iff] at both
      obtain ⟨⟨rfl, rfl⟩, ⟨p, q, _⟩, _⟩ := both
      exact e ⟨p, q⟩
    rw [cells, if_neg fun y => e (by simpa [eq_comm] using Entry.ofSite_iff.mp y)] at count
    exact count

theorem enter {w : FailWord} {k : Nat} {s : State} {key : EntryKey} {covered : EntryKey → Bool}
    {paid : SiteContext → SiteContext} {i hits : Nat} (l : TableLaws s) (adds : Adds w k (s.site w.head w.site) key covered paid)
    (room : s.HasRoom w k i covered) (playing : (s.site w.head w.site).atRest = false) :
    TableLaws (s.enter w k i hits key covered paid) := by
  have new : ∀ x ∈ s.capture.table.free (fun e => e.ofRegion w.head w.site k && covered e.key),
      x.2.sameRegion ⟨w.head, w.site, k, key, hits⟩ = true →
        x.2.key ≠ key ∧ x.2.key.covers key = false ∧ key.covers x.2.key = false := fun x hx region => by
    obtain ⟨mem, kept⟩ := List.mem_filter.mp hx
    have here : x.2.ofRegion w.head w.site k = true := Entry.sameRegion_iff.mp (Entry.sameRegion_symm region)
    exact adds.new (room.uncovered x mem here) (by simpa [here] using kept)
  refine .of_sound ((l.sound.free _).write (room.free l.canonical).1 new) (fun h j => ?_) fun h j rest => ?_
  · rw [enter_heldBy l room, enter_site]
    split
    · rename_i e
      obtain ⟨rfl, rfl⟩ := e
      rw [(adds.paid_same _).2.1, ← l.counted]
    · exact l.counted h j
  · rw [enter_site] at rest ⊢
    split at rest
    · rw [(adds.paid_same _).1] at rest
      exact absurd (playing.symm.trans rest) (by decide)
    · rename_i e
      rw [if_neg e]
      exact l.rested h j rest

theorem path {w : FailWord} {k : Nat} {s t : State} (l : TableLaws s) (p : Path w k s t)
    (playing : (s.site w.head w.site).atRest = false) : TableLaws t := by
  cases p with
  | hit n x => exact l.addHit n x
  | raise c => exact l.advances (handRaise_advances w c _ s)
  | mark => exact l.markNoRepair w
  | add i hits adds room => exact l.enter adds room playing

/-- Every effect of a step keeps the laws of the table. -/
theorem effect {s t : State} (l : TableLaws s) (e : s.Effect t) : TableLaws t := by
  cases e with
  | quiet a => exact l.advances a
  | reset a => exact (resetBlocks s).advances a
  | analyse w k a testing b =>
    have before := l.advances a
    exact (before.path (analysePath_path w k _) (by simp [SiteContext.atRest, testing])).advances b
  | release h _ a _ b => exact ((l.advances a).releaseSites h).advances b
  | clear h on a b => exact ((l.advances a).clearSites h on).advances b
  | write i p _ a =>
    have written : TableLaws (s.writeSlot i p) := ⟨l.canonical, l.keys, l.uncovered, l.counted, l.rested⟩
    exact written.advances a

end TableLaws

/-- Settles O52: each effect of a step keeps the laws. -/
theorem everyStepKeepsTheTableLaws : Obligations.EveryStepKeepsTheTableLaws := fun s t l h => by
  obtain ⟨q, e⟩ := step_effect h
  exact TableLaws.effect (s := s.withPending q) ⟨l.canonical, l.keys, l.uncovered, l.counted, l.rested⟩ e

end Sys2Proof.Machine
end

section
/-!
Every step keeps the quota and the spares: each effect of a step keeps them, site by site (R3, R14, R16). A bin frame goes
only with sites that are RESOLVED or hold no plan, and a slot is written only when no site holds it.
-/

namespace Sys2Proof.Machine

open State

/-! ## One site -/

/-- The laws of the spares for one site, by the plans and by the lines of its regions in the table. -/
structure SiteContext.Balanced (plans : SlotId → Option Plan) (rows columns : Nat → Nat) (c : SiteContext) : Prop where
  quota : ∀ e p, c.entry = some e → plans e.slot = some p → c.entriesHeld ≤ p.quota
  pairs : ∀ e p, c.entry = some e → plans e.slot = some p → e.spares.length = p.regions.length
  balance : ∀ e p, c.entry = some e → plans e.slot = some p → c.noRepair = false →
    ∀ k sp r, e.spares[k]? = some sp → p.regions[k]? = some r →
      sp.rows + rows k = r.spareRows ∧ sp.columns + columns k = r.spareColumns

/-- The site `c` is balanced as site `i` of head `h` in the state `s`. -/
def State.Balances (s : State) (h : HeadId) (i : SiteId) (c : SiteContext) : Prop :=
  c.Balanced s.planAt (fun k => s.capture.table.rowLines h i k) (fun k => s.capture.table.colLines h i k)

/-- The plan of a site is that of the slot it holds. -/
theorem State.sitePlan_iff {s : State} {c : SiteContext} {p : Plan} :
    s.sitePlan c = some p ↔ ∃ e, c.entry = some e ∧ s.planAt e.slot = some p := Option.bind_eq_some_iff

theorem spareLaws_iff {s : State} : SpareLaws s ↔ ∀ h i, s.Balances h i (s.site h i) where
  mp l h i := ⟨fun _ p x y => l.quota h i p (sitePlan_iff.mpr ⟨_, x, y⟩), l.pairs h i, l.balance h i⟩
  mpr l := ⟨fun h i p x => by
    obtain ⟨e, y, z⟩ := sitePlan_iff.mp x
    exact (l h i).quota e p y z, fun h i => (l h i).pairs, fun h i => (l h i).balance⟩

namespace SiteContext.Balanced

/-- A site in no run is balanced. -/
theorem of_none {plans : SlotId → Option Plan} {rows columns : Nat → Nat} {c : SiteContext} (h : c.entry = none) :
    c.Balanced plans rows columns := by
  constructor <;> intro e p x <;> exact absurd (h.symm.trans x) (by simp)

/-- A site that keeps its run entry and its mark, and holds no more entries than before, stays balanced. -/
theorem kept {plans : SlotId → Option Plan} {rows columns : Nat → Nat} {c d : SiteContext}
    (b : c.Balanced plans rows columns) (entry : d.entry = c.entry) (marked : d.noRepair = c.noRepair)
    (held : d.entriesHeld ≤ c.entriesHeld) : d.Balanced plans rows columns where
  quota e p x y := held.trans (b.quota e p (entry ▸ x) y)
  pairs e p x := b.pairs e p (entry ▸ x)
  balance e p x y z := b.balance e p (entry ▸ x) y (marked ▸ z)

/-- A site that begins anew with no line in the table is balanced: its spares are those of the regions (R48). -/
theorem begins {plans : SlotId → Option Plan} {rows columns : Nat → Nat} {c d : SiteContext} (b : c.Begins plans d)
    (none_ : ∀ k, rows k = 0 ∧ columns k = 0) : d.Balanced plans rows columns := by
  have spares : ∀ e p, d.entry = some e → plans e.slot = some p → e.spares = p.spares := fun e p x y => by
    obtain ⟨q, z, eq⟩ := b.entry e x
    rw [eq, Option.some.inj (z.symm.trans y)]
  refine ⟨fun _ _ _ _ => b.held ▸ Nat.zero_le _, fun e p x y => ?_, fun e p x y _ k sp r a c => ?_⟩
  · rw [spares e p x y, Plan.spares, List.length_map]
  · rw [spares e p x y, Plan.spares, List.getElem?_map, c] at a
    obtain rfl := Option.some.inj a
    rw [(none_ k).1, (none_ k).2]
    exact ⟨rfl, rfl⟩

end SiteContext.Balanced

/-! ## The lines of a site -/

/-- A site that holds no entry has no line. -/
theorem FailTable.lines_of_held {h : HeadId} {i : SiteId} {t : FailTable} (none_ : t.heldBy h i = 0) (k : Nat) :
    t.rowLines h i k = 0 ∧ t.colLines h i k = 0 := by
  rw [heldBy_eq, List.countP_eq_zero] at none_
  rw [rowLines_eq, colLines_eq, List.countP_eq_zero, List.countP_eq_zero]
  constructor <;> intro x hx line <;> refine none_ x hx ?_ <;>
    simp only [Bool.and_eq_true, Entry.ofRegion] at line <;> exact line.1.1

/-- Freeing entries of other sites, or cells, leaves the lines of a site. -/
theorem FailTable.lines_free {h : HeadId} {i : SiteId} {p : Entry → Bool} {t : FailTable}
    (kept : ∀ e : Entry, e.ofSite h i = true → p e = true → ∃ r c, e.key = .cell r c) (k : Nat) :
    (t.free p).rowLines h i k = t.rowLines h i k ∧ (t.free p).colLines h i k = t.colLines h i k := by
  rw [rowLines_eq, colLines_eq, rowLines_eq, colLines_eq]
  constructor <;> refine countP_free _ fun x _ line => Bool.eq_false_iff.mpr fun freed => ?_ <;>
    simp only [Bool.and_eq_true, Entry.ofRegion] at line <;> obtain ⟨r, c, e⟩ := kept x.2 line.1.1 freed <;>
    simp [e, EntryKey.isRow, EntryKey.isColumn] at line

/-- An entry written when cells of its region are freed adds a line to its region when it is one. -/
theorem FailTable.lines_write {h : HeadId} {j : SiteId} {p : Entry → Bool} {i : Nat} {e : Entry} {t : FailTable}
    (free : ∀ x ∈ t, x.1 = i → p x.2 = true) (cells : ∀ e, p e = true → ∃ r c, e.key = .cell r c) (k : Nat) :
    FailTable.rowLines h j k (FailTable.write i e (t.free p)) =
        t.rowLines h j k + (if e.ofRegion h j k && e.key.isRow then 1 else 0) ∧
      FailTable.colLines h j k (FailTable.write i e (t.free p)) =
        t.colLines h j k + (if e.ofRegion h j k && e.key.isColumn then 1 else 0) := by
  have gone : ∀ q : EntryKey → Bool, (∀ r c, q (.cell r c) = false) →
      t.countP (fun x => (x.2.ofRegion h j k && q x.2.key) && p x.2) = 0 := fun q no => by
    refine List.countP_eq_zero.mpr fun x _ both => ?_
    simp only [Bool.and_eq_true] at both
    obtain ⟨r, c, key⟩ := cells x.2 both.2
    exact absurd both.1.2 (by simp [key, no])
  have rows := countP_write_free (fun x => x.2.ofRegion h j k && x.2.key.isRow) (e := e) free
  have columns := countP_write_free (fun x => x.2.ofRegion h j k && x.2.key.isColumn) (e := e) free
  rw [gone _ fun _ _ => rfl] at rows columns
  rw [rowLines_eq, colLines_eq, rowLines_eq, colLines_eq]
  exact ⟨rows, columns⟩

/-! ## What a step leans on -/

/-- What the other laws give an effect of a step: the sites of a head whose bin frame goes are RESOLVED or in no run, and
a slot with use count 0 is held by no site. -/
structure State.Grounds (s : State) : Prop where
  resolved : ∀ h i, ((s.head h).state = .binWait ∨ (s.bin h).frame.isSome = true) →
    (s.site h i).state = .resolved ∨ (s.site h i).entry = none
  unused : ∀ i h j e, s.useCount i = 0 → (s.site h j).entry = some e → e.slot ≠ i

/-- The slot of a site with a run entry is the one its head uses (R36, R48, R56). -/
theorem PlaceLaws.headSlot {s : State} (l : PlaceLaws s) {h : HeadId} {i : SiteId} {e : RunEntry}
    (entry : (s.site h i).entry = some e) : s.headSlot h = some e.slot := by
  have away : (s.site h i).atRest ≠ true := fun r => absurd ((l.entered h i).mpr r) (by simp [entry])
  have bySite : (s.head h).state = .analysis ∨ (s.head h).state = .binWait → s.siteSlot h = some e.slot := fun place => by
    cases found : s.sites[h].toList.findSome? fun c => c.entry with
    | none =>
      have := List.findSome?_eq_none_iff.mp found (s.site h i) (by simp [State.site])
      exact absurd (entry.symm.trans this) (by simp)
    | some f =>
      obtain ⟨c, mem, other⟩ := List.exists_of_findSome?_eq_some found
      obtain ⟨j, hj, rfl⟩ := List.mem_iff_getElem.mp mem
      have site : (s.site h ⟨j, by simpa using hj⟩).entry = some f := by simpa [State.site] using other
      simp only [State.siteSlot, found, Option.map_some, (l.together h _ i f e place site entry).1]
  unfold State.headSlot
  split
  · rename_i state
    exact absurd (l.waiting h i (by simp [state]) (by simp [state]) (by simp [state])) away
  · rename_i state
    exact (l.current h i e state entry).1
  · rename_i state
    exact bySite (.inl state)
  · rename_i state
    exact bySite (.inr state)
  · rename_i run analysis bin
    exact absurd (l.waiting h i run analysis bin) away

theorem mem_allHeads : ∀ h : HeadId, h ∈ allHeads := by decide

theorem State.Grounds.of_laws {s : State} (heads : HeadLaws s) (plans : PlanLaws s) (places : PlaceLaws s) :
    s.Grounds where
  resolved h i bin := by
    have waits : (s.head h).state = .binWait := bin.elim id fun present => (heads.frames h).mp present
    rcases places.delivering h i waits with off | resolved
    · exact .inr ((places.entered h i).mpr (SiteContext.atRest_iff.mpr (.inl off)))
    · exact .inl resolved
  unused i h j e free entry same := by
    have users := plans.counted i
    rw [free, eq_comm, List.length_eq_zero_iff, List.filter_eq_nil_iff] at users
    exact users h (mem_allHeads h) (by simp [places.headSlot entry, same])

/-! ## Each effect -/

namespace SpareLaws

theorem advances {s t : State} (l : SpareLaws s) (table : TableLaws s) (a : s.Advances t) : SpareLaws t := by
  refine spareLaws_iff.mpr fun h i => ?_
  have before := spareLaws_iff.mp l h i
  unfold State.Balances at before ⊢
  rw [a.plans, a.table]
  rcases a.sites h i with x | x
  · exact before.kept x.entry x.marked x.held.le
  · refine .begins x fun k => FailTable.lines_of_held ?_ k
    rw [← table.counted, table.rested h i x.rested]

theorem resetBlocks (s : State) : SpareLaws s.resetBlocks :=
  spareLaws_iff.mpr fun h i => .of_none (by simp [State.resetBlocks, State.site, State.reset, SiteContext.blank])

theorem addHit {s : State} (l : SpareLaws s) (n : Nat) (x : Nat × Entry) : SpareLaws (s.addHit n x) := by
  refine spareLaws_iff.mpr fun h i => ?_
  have before := spareLaws_iff.mp l h i
  have rows : ∀ k, (s.addHit n x).capture.table.rowLines h i k = s.capture.table.rowLines h i k := fun k => by
    rw [FailTable.rowLines_eq, FailTable.rowLines_eq]
    exact FailTable.countP_setHits _ (fun _ _ _ => rfl) _ _ _
  have columns : ∀ k, (s.addHit n x).capture.table.colLines h i k = s.capture.table.colLines h i k := fun k => by
    rw [FailTable.colLines_eq, FailTable.colLines_eq]
    exact FailTable.countP_setHits _ (fun _ _ _ => rfl) _ _ _
  unfold State.Balances at before ⊢
  simp only [rows, columns]
  exact before

/-- Entries are freed, and each site whose lines are freed has no repair to make: it is in no run or marked. -/
theorem freed {s t : State} (l : SpareLaws s) (p : Entry → Bool) (plans : t.planAt = s.planAt)
    (table : t.capture.table = s.capture.table.free p)
    (sites : ∀ h i, (t.site h i).entry = none ∨
      ((t.site h i).noRepair = true ∧ (t.site h i).entry = (s.site h i).entry ∧ (t.site h i).entriesHeld = 0) ∨
      (t.site h i = s.site h i ∧ ∀ e : Entry, e.ofSite h i = true → p e = false)) : SpareLaws t := by
  refine spareLaws_iff.mpr fun h i => ?_
  have before := spareLaws_iff.mp l h i
  rcases sites h i with none_ | ⟨marked, entry, held⟩ | ⟨same, kept⟩
  · exact .of_none none_
  · refine ⟨fun _ _ _ _ => held ▸ Nat.zero_le _, fun e q x y => before.pairs e q (entry ▸ x) (plans ▸ y), ?_⟩
    exact fun _ _ _ _ z => absurd (marked.symm.trans z) (by simp)
  · have lines := FailTable.lines_free (t := s.capture.table) (h := h) (i := i) (p := p) fun e site free =>
      absurd (kept e site) (by simp [free])
    unfold State.Balances at before ⊢
    rw [plans, table, same]
    simp only [lines]
    exact before

theorem markNoRepair {s : State} (l : SpareLaws s) (w : FailWord) : SpareLaws (s.markNoRepair w) := by
  refine l.freed (Entry.ofSite w.head w.site) rfl rfl fun h i => ?_
  simp only [State.markNoRepair, onSite_site, onCapture_site]
  by_cases e : h = w.head ∧ i = w.site
  · obtain ⟨rfl, rfl⟩ := e
    rw [if_pos ⟨rfl, rfl⟩]
    exact .inr (.inl ⟨rfl, rfl, rfl⟩)
  · rw [if_neg e]
    refine .inr (.inr ⟨rfl, fun x site => ?_⟩)
    obtain ⟨rfl, rfl⟩ := Entry.ofSite_iff.mp site
    exact Bool.eq_false_iff.mpr fun y => e (Entry.ofSite_iff.mp y)

theorem releaseSites {s : State} (l : SpareLaws s) {h : HeadId}
    (done : ∀ i, (s.site h i).state = .resolved ∨ (s.site h i).entry = none) : SpareLaws (s.releaseSites h) := by
  refine l.freed (fun e => e.head == h) rfl rfl fun k i => ?_
  have site : (s.releaseSites h).site k i = if k = h then (s.site h i).release else s.site k i := mapSites_site ..
  rw [site]
  by_cases e : k = h
  · rw [if_pos e]
    left
    unfold SiteContext.release
    split
    · rfl
    · rename_i other
      exact (done i).resolve_left other
  · rw [if_neg e]
    exact .inr (.inr ⟨rfl, fun x y => (TableLaws.ofSite_head y).trans (decide_eq_false e)⟩)

theorem clearSites {s : State} (l : SpareLaws s) (h : HeadId) (on : SiteId → Bool) :
    SpareLaws ((s.clearCapture h).mapSites h fun i _ => SiteContext.afterReset (on i)) := by
  refine l.freed (fun e => e.head == h) rfl rfl fun k i => ?_
  rw [mapSites_site]
  by_cases e : k = h
  · rw [if_pos e]
    exact .inl rfl
  · rw [if_neg e]
    exact .inr (.inr ⟨rfl, fun x y => (TableLaws.ofSite_head y).trans (decide_eq_false e)⟩)

theorem writeSlot {s : State} (l : SpareLaws s) {i : SlotId} (r : Option Plan)
    (unused : ∀ h j e, (s.site h j).entry = some e → e.slot ≠ i) : SpareLaws (s.writeSlot i r) := by
  refine spareLaws_iff.mpr fun h j => ?_
  have before := spareLaws_iff.mp l h j
  have plan : ∀ e, (s.site h j).entry = some e → (s.writeSlot i r).planAt e.slot = s.planAt e.slot := fun e x => by
    show (upd s.store.slots i _)[e.slot].record = _
    rw [upd_get, if_neg (unused h j e x)]
    rfl
  exact ⟨fun e p x y => before.quota e p x (plan e x ▸ y), fun e p x y => before.pairs e p x (plan e x ▸ y),
    fun e p x y => before.balance e p x (plan e x ▸ y)⟩

/-- Spares of one region that change as its lines do, with the lines of the other regions as before, stay balanced. -/
theorem onSpares_balanced {plans : SlotId → Option Plan} {rows columns rows' columns' : Nat → Nat} {c : SiteContext}
    (b : c.Balanced plans rows columns) {n : Nat}
    (quota : ∀ e p, c.entry = some e → plans e.slot = some p → n ≤ p.quota) {k : Nat} {take : Spares → Spares}
    (others : ∀ j, k ≠ j → rows' j = rows j ∧ columns' j = columns j)
    (here : (take (c.sparesOf k)).rows + rows' k = (c.sparesOf k).rows + rows k ∧
      (take (c.sparesOf k)).columns + columns' k = (c.sparesOf k).columns + columns k) :
    (SiteContext.onSpares k take { c with entriesHeld := n }).Balanced plans rows' columns' := by
  have paid : ∀ e, (SiteContext.onSpares k take { c with entriesHeld := n }).entry = some e →
      ∃ f, c.entry = some f ∧ { f with spares := f.spares.set k (take (c.sparesOf k)) } = e :=
    fun e x => Option.map_eq_some_iff.mp x
  refine ⟨fun e p x y => ?_, fun e p x y => ?_, fun e p x y unmarked j sp r counters region => ?_⟩ <;>
    obtain ⟨f, own, rfl⟩ := paid e x
  · exact quota f p own y
  · rw [List.length_set]
    exact b.pairs f p own y
  · by_cases same : k = j
    · subst same
      obtain ⟨old, before, rfl⟩ := Option.map_eq_some_iff.mp (List.getElem?_set_self'.symm.trans counters)
      have spares : c.sparesOf k = old := by simp only [SiteContext.sparesOf, own, Option.bind_some, before, Option.getD_some]
      have balance := b.balance f p own y unmarked k old r before region
      rw [← spares] at balance
      exact ⟨here.1.trans balance.1, here.2.trans balance.2⟩
    · rw [List.getElem?_set_ne same] at counters
      rw [(others j same).1, (others j same).2]
      exact b.balance f p own y unmarked j sp r counters region

/-- A spare that is left is spent on a line of its region (R14). -/
theorem paid_balanced {w : FailWord} {k hits : Nat} {plans : SlotId → Option Plan} {rows columns : Nat → Nat}
    {c : SiteContext} {key : EntryKey} {covered : EntryKey → Bool} {paid : SiteContext → SiteContext}
    (adds : Adds w k c key covered paid) (n : Nat)
    (quota : ∀ e p, c.entry = some e → plans e.slot = some p → n ≤ p.quota) (b : c.Balanced plans rows columns) :
    (paid { c with entriesHeld := n }).Balanced plans
      (fun j => rows j + if (⟨w.head, w.site, k, key, hits⟩ : Entry).ofRegion w.head w.site j && key.isRow then 1 else 0)
      (fun j => columns j +
        if (⟨w.head, w.site, k, key, hits⟩ : Entry).ofRegion w.head w.site j && key.isColumn then 1 else 0) := by
  have region : ∀ j, (⟨w.head, w.site, k, key, hits⟩ : Entry).ofRegion w.head w.site j = decide (k = j) := fun j => by
    simp only [Entry.ofRegion, Entry.ofSite, beq_self_eq_true, Bool.and_self, Bool.true_and]
    rfl
  simp only [region]
  cases adds with
  | cell =>
    simp only [EntryKey.isRow, EntryKey.isColumn, Bool.and_false, Bool.false_eq_true, if_false, Nat.add_zero]
    exact ⟨quota, b.pairs, b.balance⟩
  | row left =>
    refine onSpares_balanced b quota (fun j other => by simp [other]) ⟨?_, by simp [Spares.takeRow, EntryKey.isColumn]⟩
    simp [Spares.takeRow, EntryKey.isRow]
    omega
  | column left =>
    refine onSpares_balanced b quota (fun j other => by simp [other]) ⟨by simp [Spares.takeColumn, EntryKey.isRow], ?_⟩
    simp [Spares.takeColumn, EntryKey.isColumn]
    omega

theorem enter {w : FailWord} {k i hits : Nat} {s : State} {key : EntryKey} {covered : EntryKey → Bool}
    {paid : SiteContext → SiteContext} (l : SpareLaws s) (adds : Adds w k (s.site w.head w.site) key covered paid)
    (canonical : s.capture.table.wf = true) (room : s.HasRoom w k i covered) : SpareLaws (s.enter w k i hits key covered paid) := by
  refine spareLaws_iff.mpr fun h j => ?_
  have before := spareLaws_iff.mp l h j
  have lines := FailTable.lines_write (h := h) (j := j) (e := ⟨w.head, w.site, k, key, hits⟩)
    (p := fun e => e.ofRegion w.head w.site k && covered e.key) (room.free canonical).2
    fun e both => adds.covered_cell (Bool.and_eq_true _ _ ▸ both).2
  have table : (s.enter w k i hits key covered paid).capture.table = FailTable.write i ⟨w.head, w.site, k, key, hits⟩
    (s.capture.table.free fun e => e.ofRegion w.head w.site k && covered e.key) := rfl
  unfold State.Balances at before ⊢
  rw [TableLaws.enter_site, table]
  simp only [lines]
  split
  · rename_i e
    obtain ⟨rfl, rfl⟩ := e
    refine paid_balanced adds _ (fun e p x y => ?_) before
    have held := before.quota e p x y
    cases cells : s.cellsUnder w k covered with
    | cons _ _ => simp only [List.length_cons]; omega
    | nil =>
      have plan := (sitePlan_iff (s := s)).mpr ⟨e, x, y⟩
      have quota : (s.site w.head w.site).entriesHeld ≠ p.quota := fun q => room.quota cells (by rw [plan, q]; rfl)
      simp only [List.length_nil]
      omega
  · rename_i other
    have none_ : ∀ n, (⟨w.head, w.site, k, key, hits⟩ : Entry).ofRegion h j n = false := fun n =>
      Bool.eq_false_iff.mpr fun q => by
        obtain ⟨rfl, rfl, _⟩ := Entry.ofRegion_iff.mp q
        exact other ⟨rfl, rfl⟩
    simp only [none_, Bool.false_and, Bool.false_eq_true, if_false, Nat.add_zero]
    exact before

theorem path {w : FailWord} {k : Nat} {s t : State} (l : SpareLaws s) (table : TableLaws s) (p : Path w k s t) :
    SpareLaws t := by
  cases p with
  | hit n x => exact l.addHit n x
  | raise c => exact l.advances table (handRaise_advances w c _ s)
  | mark => exact l.markNoRepair w
  | add i hits adds room => exact l.enter adds table.canonical room

/-- Every effect of a step keeps the quota and the spares. -/
theorem effect {s t : State} (l : SpareLaws s) (table : TableLaws s) (grounds : s.Grounds) (e : s.Effect t) :
    SpareLaws t := by
  cases e with
  | quiet a => exact l.advances table a
  | reset a => exact (resetBlocks s).advances (TableLaws.resetBlocks s) a
  | @analyse u _ w k a testing b =>
    have laws := table.advances a
    have path := analysePath_path w k u
    exact ((l.advances table a).path laws path).advances
      (laws.path path (by simp [SiteContext.atRest, testing])) b
  | release h bin a same b =>
    have done := fun i => grounds.resolved h i bin
    simp only [State.site, ← same] at done
    exact ((l.advances table a).releaseSites done).advances ((table.advances a).releaseSites h) b
  | clear h on a b =>
    exact ((l.advances table a).clearSites h on).advances ((table.advances a).clearSites h on) b
  | write i p free a =>
    have laws : TableLaws (s.writeSlot i p) :=
      ⟨table.canonical, table.keys, table.uncovered, table.counted, table.rested⟩
    exact (l.writeSlot p fun h j e x => grounds.unused i h j e free x).advances laws a

end SpareLaws

/-- Settles O59: each effect of a step keeps the laws. -/
theorem everyStepKeepsTheQuotaAndTheSpares : Obligations.EveryStepKeepsTheQuotaAndTheSpares :=
  fun s t _ table heads plans places l h => by
    obtain ⟨q, e⟩ := step_effect h
    have grounds := Grounds.of_laws heads plans places
    exact SpareLaws.effect (s := s.withPending q) ⟨l.quota, l.pairs, l.balance⟩
      ⟨table.canonical, table.keys, table.uncovered, table.counted, table.rested⟩ ⟨grounds.resolved, grounds.unused⟩ e

end Sys2Proof.Machine
end

section
/-!
The queue of commands, and the two resets: every command has a next state and leaves the queue (R19, R133); both resets
bring the blocks to their power-on state (R25, R62, R184), in which all laws hold.
-/

namespace Sys2Proof.Machine

open State

/-! ## The queue of commands -/

/-- No effect of a step touches the commands that wait. -/
theorem State.Effect.pending {s t : State} (e : s.Effect t) : t.pending = s.pending := by
  cases e with
  | quiet a => exact a.pending
  | reset a => exact a.pending
  | analyse w k a _ b => exact b.pending.trans ((analysePath_same w k _ .pending (by decide)).trans a.pending)
  | release h _ a _ b => exact b.pending.trans a.pending
  | clear h on a b => exact b.pending.trans a.pending
  | write i p _ a => exact a.pending

/-- On an empty queue the Run Controller takes what the oldest word raised (log 29). -/
theorem step_idle {s : State} (h : s.pending = []) : step s = .next s.takeOldestRaises := by
  simp only [step, h]

/-- With no raise waiting there is none to take. -/
theorem State.takeOldestRaises_nil {s : State} (h : s.capture.raises = []) : s.takeOldestRaises = s := by
  simp only [takeOldestRaises, h]

/-- Settles O2: a command's next state is an effect of a step, and an idle step takes the raises of the oldest word. -/
theorem everyCommandHasANextState : Obligations.EveryCommandHasANextState := by
  refine ⟨fun c s => ?_, fun s idle => ⟨fun none_ => ?_, fun r same rest raises word other => ?_⟩⟩
  · obtain ⟨t, run, effect⟩ := exec_effect c s
    exact ⟨t, run, effect.pending⟩
  · rw [step_idle idle, takeOldestRaises_nil none_]
  · rw [step_idle idle, takeOldestRaises_word raises word other]
    rfl

/-! ## Resets -/

section
variable (s : State)

@[simp] theorem State.resetBlocks_site (h : HeadId) (i : SiteId) : s.resetBlocks.site h i = .blank .off := by
  simp [resetBlocks, State.site, State.reset]

@[simp] theorem State.resetBlocks_head (h : HeadId) : s.resetBlocks.head h = HeadContext.reset s.lines[h].start := by
  simp [resetBlocks, State.head]

@[simp] theorem State.resetBlocks_bin (h : HeadId) : s.resetBlocks.bin h = .reset := by
  simp [resetBlocks, State.bin, State.reset]

end

theorem CaptureUnit.reset_watches (k : Fin 4) : CaptureUnit.reset.watches[k] = .reset := by
  simp [CaptureUnit.reset]

theorem PlanStore.reset_slots (i : SlotId) : PlanStore.reset.slots[i] = ⟨none, 0⟩ := by
  simp [PlanStore.reset]

/-- Class c is at level c/2 (R34). -/
theorem PlanStore.reset_classMap : ∀ i : Fin 8, (PlanStore.reset.classMap[i]).val = i.val / 2 := by decide

/-- At its owner a request command does what the owner does. -/
theorem State.AtOwner.runs {c : Instr} {q r : Request} {p : ControlPort} {s : State} (owner : Request → State → State)
    (o : s.AtOwner c q p) (e : requestOf c = some r) (run : exec c s = .next (takeRequest r (owner r) s)) :
    exec c s = .next (owner q { s with port := p }) := by
  obtain rfl := o.request e
  rw [run, takeRequest_taken o.2]

/-- Settles O4. -/
theorem resetsLeaveThePowerOnState : Obligations.ResetsLeaveThePowerOnState := by
  refine ⟨fun s => ⟨s.powerOn, rfl, ?_⟩, fun s => ⟨s.powerOn, rfl, resetBlocks_site s, fun h => ?_, rfl⟩,
    fun tag q p s owner => ⟨_, owner.runs partResetRequest rfl rfl, ?_⟩⟩
  · refine ⟨rfl, rfl, rfl, rfl, rfl, rfl, rfl, rfl, rfl, fun i => ⟨PlanStore.reset_slots i, PlanStore.reset_classMap i⟩,
      resetBlocks_head s, rfl, rfl, rfl, rfl, rfl, CaptureUnit.reset_watches, resetBlocks_site s, rfl,
      resetBlocks_bin s, fun b hb => ?_⟩
    cases b with
    | lines => rfl
    | wire => rfl
    | pending => rfl
    | _ => exact absurd (by decide) hb
  · show (s.resetBlocks.head h).enableSet = 0
    rw [resetBlocks_head]
    rfl
  · refine ⟨resetBlocks_site s, fun h => ?_, rfl⟩
    show (s.resetBlocks.head h).enableSet = 0
    rw [resetBlocks_head]
    rfl

/-! ## The laws at reset -/

namespace State

@[simp] theorem reset_site (h : HeadId) (i : SiteId) : State.reset.site h i = .blank .off := by
  simp [State.site, State.reset]

@[simp] theorem reset_head (h : HeadId) : State.reset.head h = HeadContext.reset .low := by
  simp [State.head, State.reset]

@[simp] theorem reset_bin (h : HeadId) : State.reset.bin h = BinPort.reset := by
  simp [State.bin, State.reset]

@[simp] theorem reset_useCount (i : SlotId) : State.reset.useCount i = 0 := by
  simp [State.useCount, State.reset, PlanStore.reset]

end State

theorem tableLaws_reset : TableLaws State.reset :=
  .of_sound FailTable.sound_nil (fun h i => by rw [reset_site]; rfl) fun h i _ => by rw [reset_site]; rfl

theorem runLaws_reset : RunLaws State.reset where
  buffer := by decide
  levels := by decide
  phantom := by decide
  resting _ := ⟨rfl, rfl, rfl, rfl⟩
  returns r h := absurd h (by simp [State.reset, RunController.reset])

theorem portLaws_reset : PortLaws State.reset.port where
  window := by decide
  tags := by decide
  refusals := by decide
  notices := by decide

theorem reported_reset : Reported State.reset where
  transmitting _ := ⟨rfl, rfl⟩
  events h := by rw [reset_head]; rfl

theorem engineLaws_reset : EngineLaws State.reset where
  serving e h := absurd h (by simp [State.reset, Allocator.reset])
  idle _ := rfl

theorem headLaws_reset : HeadLaws State.reset where
  linked h x := by rw [reset_head] at x; exact absurd x (by decide)
  offline h _ := by rw [reset_head]; decide
  supplied h x := by rw [reset_head] at x; exact absurd rfl x
  serviced h x := by rw [reset_head] at x; exact absurd x (by decide)
  wakes h x := by rw [reset_head] at x; exact absurd x (by decide)
  grouped h := by
    rw [reset_head]
    simp [HeadContext.reset, State.inGroup, State.reset, RunController.reset]
  queued e h := absurd h (by simp [State.reset, Arbiter.reset])
  entries := by decide
  analysed j h := absurd h (by simp [State.reset, Allocator.reset])
  jobs := by decide
  frames h := by
    rw [reset_head, reset_bin]
    simp [HeadContext.reset, BinPort.reset]

theorem siteLaws_reset : SiteLaws State.reset where
  playing h i x := by rw [reset_site] at x; exact absurd x (by decide)
  waiting x := absurd x (by decide)
  parked h i d := by
    have none_ : State.reset.gates.parkedAt d h = 0 := by cases d <;> rfl
    rw [none_, reset_site]
    simp [SiteContext.blank]

theorem answerLaws_reset : AnswerLaws State.reset where
  once := by
    have none_ : State.reset.owed = [] := by
      unfold State.owed
      simp only [reset_head]
      rfl
    rw [none_]
    exact .refl _
  inOrder := .nil
  replying r h := absurd h (by simp [State.reset, ControlPort.reset])
  notifying n h := absurd h (by simp [State.reset, ControlPort.reset])

theorem placeLaws_reset : PlaceLaws State.reset where
  enabled h i := by rw [reset_site, reset_head]; simp [SiteContext.blank, HeadContext.reset]
  entered h i := by rw [reset_site]; exact ⟨fun _ => rfl, fun _ => rfl⟩
  waiting h i _ _ _ := by rw [reset_site]; rfl
  playing h i x := by rw [reset_head] at x; exact absurd x (by decide)
  started h i x := by rw [reset_head] at x; exact absurd x (by decide)
  analysing h i x := by rw [reset_head] at x; exact absurd x (by decide)
  delivering h i x := by rw [reset_head] at x; exact absurd x (by decide)
  current h i e x := by rw [reset_head] at x; exact absurd x (by decide)
  together h i j e f x := by rw [reset_head] at x; exact absurd x (by decide)
  peopled h x := by rw [reset_head] at x; exact absurd x (by decide)

theorem planLaws_reset : PlanLaws State.reset where
  running x := absurd rfl x
  queued h x := by rw [reset_head] at x; exact absurd x (by decide)
  counted i := by
    have none_ : ∀ h : HeadId, State.reset.headSlot h = none := fun h => by
      unfold State.headSlot
      rw [reset_head]
      rfl
    simp [none_]
  loaded i x := absurd (reset_useCount i) x

theorem spareLaws_reset : SpareLaws State.reset :=
  spareLaws_iff.mpr fun h i => .of_none (by rw [reset_site]; rfl)

/-- Settles O60. -/
theorem theLawsHoldAtReset : Obligations.TheLawsHoldAtReset :=
  ⟨tableLaws_reset, runLaws_reset, portLaws_reset, reported_reset, engineLaws_reset, headLaws_reset, siteLaws_reset,
    answerLaws_reset, placeLaws_reset, planLaws_reset, spareLaws_reset⟩

end Sys2Proof.Machine
end

section
/-!
The reads of the Capture Unit and the Site Table, and WATCH_SET: what their owners answer, field by field (R21, R23, R24,
R60).
-/

namespace Sys2Proof.Machine

open State

/-! ## WATCH_SET and WATCH_READ -/

theorem watchSiteOf_val {b : Byte} {x : Option SiteId} (h : watchSiteOf b = some x) :
    (x = none ↔ b = 0xFF#8) ∧ ∀ i, x = some i → i.val = b.toNat := by
  unfold watchSiteOf at h
  split at h
  · rename_i any
    obtain rfl := Option.some.inj h
    exact ⟨⟨fun _ => any, fun _ => rfl⟩, fun i e => absurd e (by simp)⟩
  · rename_i one
    obtain ⟨i, e, rfl⟩ := Option.map_eq_some_iff.mp h
    exact ⟨⟨fun e => absurd e (by simp), fun e => absurd e one⟩, fun j q => Option.some.inj q ▸ siteOf_val e⟩

theorem watchColumnOf_val {c : Half} {x : Option Half} (h : watchColumnOf c = some x) :
    (x = none ↔ c = 0xFFFF#16) ∧ ∀ d, x = some d → d = c := by
  unfold watchColumnOf at h
  split at h
  · rename_i any
    obtain rfl := Option.some.inj h
    exact ⟨⟨fun _ => any, fun _ => rfl⟩, fun i e => absurd e (by simp)⟩
  · rename_i one
    split at h
    · obtain rfl := Option.some.inj h
      exact ⟨⟨fun e => absurd e (by simp), fun e => absurd e one⟩, fun d q => (Option.some.inj q).symm⟩
    · exact absurd h (by simp)

/-- The entry that a WATCH_SET body in range makes, field by field (R21). -/
theorem watchOf_val {b : WatchBody} {k : Fin 4} {e : Watch} (h : watchOf b = some (k, e)) :
    b.index.toNat = k.val ∧ e.valid = (b.valid == 1) ∧ e.head.val = b.head.toNat ∧
      (e.site = none ↔ b.site = 0xFF#8) ∧ (∀ i, e.site = some i → i.val = b.site.toNat) ∧ e.bank = b.bank ∧
      e.row = b.row ∧ (e.column = none ↔ b.column = 0xFFFF#16) ∧ (∀ c, e.column = some c → c = b.column) ∧
      e.hold = (b.hold == 1) ∧ e.hit = false := by
  unfold watchOf at h
  split at h
  · rename_i i v hd s c o index valid head site column hold
    split at h
    · obtain ⟨rfl, rfl⟩ := Prod.mk.inj (Option.some.inj h)
      obtain ⟨anySite, oneSite⟩ := watchSiteOf_val site
      obtain ⟨anyColumn, oneColumn⟩ := watchColumnOf_val column
      exact ⟨(indexOf_val index).symm, onOff_val valid, headOf_val head, anySite, oneSite, rfl, rfl, anyColumn, oneColumn,
        onOff_val hold, rfl⟩
    · exact absurd h (by simp)
  · exact absurd h (by simp)

theorem watchOf_none {b : WatchBody} (h : ¬ WatchBody.InRange b) : watchOf b = none :=
  Option.not_isSome_iff_eq_none.mp fun x => h (watchOf_isSome.mp x)

/-- The fields of a watch entry as WATCH_READ answers them (R186). -/
theorem watchBytes_eq (w : Watch) : watchBytes w =
    [boolByte w.valid, byteOf w.head.val, (match w.site with
      | some i => byteOf i.val
      | none => 0xFF#8), w.bank] ++ be16 w.row ++ be16 (match w.column with
      | some c => c
      | none => 0xFFFF#16) ++ [boolByte w.hold, boolByte w.hit] := by
  unfold watchBytes
  cases w.site <;> cases w.column <;> rfl

/-- Settles O13. -/
theorem watchRequestsSetAndReadTheEntry : Obligations.WatchRequestsSetAndReadTheEntry := by
  refine ⟨fun tag b q p s owner => ?_, fun tag k q p s owner => ?_, fun tag index q p s owner above => ?_⟩
  · have run := owner.runs (watchSetRequest · b) rfl rfl
    refine ⟨fun out => ?_, fun inside => ?_⟩
    · rw [run]
      simp only [watchSetRequest, watchOf_none out]
      rfl
    · obtain ⟨⟨k, e⟩, made⟩ := Option.isSome_iff_exists.mp (watchOf_isSome.mpr inside)
      obtain ⟨index, valid, head, any, site, bank, row, wide, column, hold, hit⟩ := watchOf_val made
      refine ⟨k, e, index, valid, head, any, site, bank, row, wide, column, hold, hit, ?_⟩
      rw [run]
      simp only [watchSetRequest, made]
      rfl
  · show exec _ s = _
    rw [owner.runs (watchReadRequest · _) rfl rfl]
    simp only [watchReadRequest, indexOf_byteOf, watchBytes_eq]
    rfl
  · rw [owner.runs (watchReadRequest · _) rfl rfl]
    simp only [watchReadRequest, indexOf_above above]
    rfl

/-! ## TABLE_READ -/

theorem be16_zero : be16 0#16 = [0#8, 0#8] := by decide

/-- A returned entry (11.3). -/
theorem entryBytes_eq (x : Nat × Entry) : entryBytes x = be16OfNat x.1 ++ (match x.2.key with
    | .cell r c => [1#8, byteOf x.2.region] ++ be16 r ++ be16 c
    | .rowLine r => [2#8, byteOf x.2.region] ++ be16 r ++ [0#8, 0#8]
    | .colLine c => [3#8, byteOf x.2.region] ++ [0#8, 0#8] ++ be16 c) ++ be16OfNat x.2.hits := by
  unfold entryBytes
  cases x.2.key <;> simp [EntryKey.code, EntryKey.row, EntryKey.column, be16_zero]

theorem State.entriesFrom_eq (h : HeadId) (i : SiteId) (start : Nat) (s : State) : s.entriesFrom h i start =
    s.capture.table.filter fun x => decide (start ≤ x.1) && x.2.head == h && x.2.site == i := by
  simp only [entriesFrom, Entry.ofSite, Bool.and_assoc]

/-- TABLE_READ outside the ranges of its fields is refused (R24, R185). -/
theorem State.tableReadRequest_refused (q : Request) {head site : Byte} {start : Half} {count : Byte} (s : State)
    (out : 3 < head.toNat ∨ 31 < site.toNat ∨ 4095 < start.toNat ∨ count.toNat = 0 ∨ 96 < count.toNat) :
    s.tableReadRequest q head site start count = (s.refuse q .badValue).emit := by
  unfold tableReadRequest
  split
  · rename_i h i hd st
    have h4 := headOf_val hd
    have h32 := siteOf_val st
    rw [if_neg (by omega)]
  · rfl

/-- TABLE_READ in range answers the table (R24). -/
theorem State.tableReadRequest_answers (q : Request) (h : HeadId) (i : SiteId) {start : Half} {count : Byte} (s : State)
    (first : start.toNat ≤ 4095) (some_ : 1 ≤ count.toNat) (few : count.toNat ≤ 96) :
    s.tableReadRequest q (byteOf h.val) (byteOf i.val) start count =
      (s.answerOk q (s.tableBytes h i start.toNat count.toNat)).emit := by
  simp only [tableReadRequest, headOf_byteOf, siteOf_byteOf, first, some_, few, and_self, if_true]

/-- The entries that TABLE_READ sends and those after them: `count` are sent when others stay, and the reply names the
first that stays (11.3, R24). -/
theorem State.tableBytes_split (h : HeadId) (i : SiteId) (start count : Nat) (s : State) : ∃ sent rest : FailTable,
    sent ++ rest = s.entriesFrom h i start ∧ sent.length ≤ count ∧ (rest ≠ [] → sent.length = count) ∧
    s.tableBytes h i start count = be16OfNat (s.site h i).entriesHeld ++
      be16OfNat (match rest with
        | [] => 4096
        | x :: _ => x.1) ++ [byteOf sent.length] ++ sent.flatMap entryBytes := by
  let all := s.entriesFrom h i start
  refine ⟨all.take count, all.drop count, List.take_append_drop .., List.length_take_le .., fun more => ?_, ?_⟩
  · have long : count < all.length := Nat.lt_of_not_le fun short => more (List.drop_eq_nil_of_le short)
    rw [List.length_take, Nat.min_eq_left long.le]
  · show _ ++ be16OfNat (((all.drop count).head?.map Prod.fst).getD Config.tableSize) ++ _ ++ _ = _
    cases all.drop count <;> rfl

/-! ## SITE_RESULT -/

/-- The five capture flags, one in each of the low bits (11.3). -/
theorem captureFlags_bits (c : SiteContext) :
    (captureFlags c).getLsbD 0 = c.aborted.isSome ∧ (captureFlags c).getLsbD 1 = c.captureLost ∧
      (captureFlags c).getLsbD 2 = c.expired ∧ (captureFlags c).getLsbD 3 = c.strictFail ∧
      (captureFlags c).getLsbD 4 = c.noRepair := by
  have all : ∀ v w x y z : Bool,
      let f : Byte := boolByte v ||| (boolByte w <<< 1) ||| (boolByte x <<< 2) ||| (boolByte y <<< 3) ||| (boolByte z <<< 4)
      f.getLsbD 0 = v ∧ f.getLsbD 1 = w ∧ f.getLsbD 2 = x ∧ f.getLsbD 3 = y ∧ f.getLsbD 4 = z := by decide
  exact all ..

/-- A pair of spare counters, the rows in the high half of the byte (11.3). -/
theorem spareByte_eq {p : Spares} (rows : p.rows ≤ 15) (columns : p.columns ≤ 15) :
    spareByte p = byteOf (16 * p.rows + p.columns) := by
  have join : 16 * p.rows + p.columns = 16 * p.rows ||| p.columns :=
    Nat.two_pow_add_eq_or_of_lt (i := 4) (by omega) p.rows
  refine BitVec.eq_of_toNat_eq ?_
  rw [byteOf_toNat (by omega), join]
  unfold spareByte
  rw [BitVec.toNat_or, BitVec.toNat_shiftLeft, byteOf_toNat (by omega), byteOf_toNat (by omega), Nat.shiftLeft_eq,
    Nat.mod_eq_of_lt (by omega), Nat.mul_comm]

theorem contextBytes_eq (w : Option Work) : contextBytes w = (match w with
    | none => [0#8, 0#8, 0#8]
    | some w => [byteOf w.region, w.phase.code, byteOf w.stack.length]) := by
  cases w <;> rfl

/-- The bytes of a SITE_RESULT reply before its repair lines (11.3). -/
def siteResultHead (c : SiteContext) : List Byte :=
  [c.state.code, captureFlags c, optCode AbortCause.code c.aborted] ++ be16OfNat c.entriesHeld ++
    be16OfNat c.failCount ++ [byteOf c.unmappedCount, optCode (fun e => byteOf e.slot.val) c.entry] ++
    be16 ((c.entry.map RunEntry.runNumber).getD 0) ++ spareBytes c.entry ++ [optCode byteOf c.parkLevel] ++
    contextBytes c.context ++ [optCode (fun o => byteOf o.index.val) c.outcome, byteOf ((c.repairList.getD []).length)]

theorem siteResultBytes_eq (c : SiteContext) :
    siteResultBytes c = siteResultHead c ++ (c.repairList.getD []).flatMap RepairLine.bytes := rfl

theorem siteResultHead_length (c : SiteContext) : (siteResultHead c).length = 26 := by
  unfold siteResultHead
  rw [contextBytes_eq]
  cases c.context <;> rfl

theorem repairBytes_length (l : List RepairLine) : (l.flatMap RepairLine.bytes).length = 4 * l.length := by
  induction l with
  | nil => rfl
  | cons x rest ih =>
    have four : x.bytes.length = 4 := by unfold RepairLine.bytes; cases x.line <;> rfl
    rw [List.flatMap_cons, List.length_append, four, ih, List.length_cons]
    omega

theorem repairLine_bytes_eq (l : RepairLine) : l.bytes = byteOf l.region :: (match l.line with
    | .row r => 0#8 :: be16 r
    | .col a => 1#8 :: be16 a) := by
  unfold RepairLine.bytes
  cases l.line <;> rfl

/-- The byte of the spare counters of a region (11.3). -/
theorem spareBytes_get {e : RunEntry} {k : Nat} {sp : Spares} (h : e.spares[k]? = some sp) (lt : k < 8) :
    (spareBytes (some e))[k + 1]? = some (spareByte sp) := by
  simp [spareBytes, h, lt]

/-- The bytes of a SITE_RESULT reply around the spare counters: they stand from the twelfth byte on. -/
theorem siteResultHead_spares (c : SiteContext) {k : Nat} (lt : k < 8) :
    (siteResultHead c)[12 + k]? = (spareBytes c.entry)[k + 1]? := by
  have length : (spareBytes c.entry).length = 9 := rfl
  unfold siteResultHead
  simp only [List.append_assoc]
  rw [← List.append_assoc, ← List.append_assoc, ← List.append_assoc, ← List.append_assoc,
    List.getElem?_append_right (Nat.le_add_right 11 (1 + k) |>.trans (Nat.le_of_eq (by omega))),
    List.getElem?_append_left (by rw [length]; show 12 + k - 11 < 9; omega)]
  congr 1
  show 12 + k - 11 = k + 1
  omega

/-- A pair of spare counters in the SITE_RESULT reply (11.3). -/
theorem siteResultBytes_spares {c : SiteContext} {e : RunEntry} (entry : c.entry = some e) {k : Nat} {sp : Spares}
    (here : e.spares[k]? = some sp) (lt : k < 8) (rows : sp.rows ≤ 15) (columns : sp.columns ≤ 15) :
    (siteResultBytes c)[12 + k]? = some (byteOf (16 * sp.rows + sp.columns)) := by
  rw [siteResultBytes_eq, List.getElem?_append_left (by rw [siteResultHead_length]; omega),
    siteResultHead_spares c lt, entry, spareBytes_get here lt, spareByte_eq rows columns]

/-- The fields of the SITE_RESULT reply that follow the spare counters up to the repair lines (11.3). -/
theorem siteResultBytes_context (c : SiteContext) :
    ((siteResultBytes c).drop 21).take 3 = (match c.context with
      | none => [0#8, 0#8, 0#8]
      | some w => [byteOf w.region, w.phase.code, byteOf w.stack.length]) ∧
    ((siteResultBytes c).drop 24).take 2 =
      [optCode (fun o => byteOf o.index.val) c.outcome, byteOf (c.repairList.getD []).length] := by
  unfold siteResultBytes
  rw [contextBytes_eq]
  constructor <;> cases c.context <;> rfl

/-- Settles O14: out of range each request is refused, and in range its reply is read off byte by byte. -/
theorem tableReadAndSiteResultAnswers : Obligations.TableReadAndSiteResultAnswers := by
  refine ⟨fun tag head site start count q p s owner => ?_, fun tag h i q p s owner => ?_,
    fun tag head site q p s owner above => ?_⟩
  · have run := owner.runs (tableReadRequest · head site start count) rfl rfl
    refine ⟨fun out => ?_, ?_⟩
    · rw [run, tableReadRequest_refused q _ out]
      rfl
    · rintro h i rfl rfl first one few
      obtain ⟨sent, rest, all, few_sent, more, bytes⟩ := tableBytes_split h i start.toNat count.toNat s
      refine ⟨sent, rest, all.trans (entriesFrom_eq ..), few_sent, more, ?_⟩
      rw [run, tableReadRequest_answers q h i _ first one few, answerOk_emit]
      congr 2
      exact bytes.trans (congrArg _ (List.flatMap_congr fun x _ => entryBytes_eq x))
  · have bits := captureFlags_bits (s.site h i)
    refine ⟨siteResultBytes (s.site h i), ?_⟩
    generalize c_eq : s.site h i = c at *
    refine ⟨?_, ?_, rfl, fun b e => ?_, rfl, rfl, fun e entry => ⟨?_, fun k sp here lt rows columns => ?_⟩, fun entry => ?_,
      ?_, ?_, ?_, ?_⟩
    · rw [owner.runs (siteResultRequest · _ _) rfl rfl]
      simp only [siteResultRequest, headOf_byteOf, siteOf_byteOf, ← c_eq]
      rfl
    · rw [siteResultBytes_eq, List.length_append, siteResultHead_length, repairBytes_length]
    · obtain rfl : captureFlags c = b := Option.some.inj e
      exact bits
    · unfold siteResultBytes
      rw [entry]
      rfl
    · exact siteResultBytes_spares entry here lt rows columns
    · unfold siteResultBytes
      rw [entry]
      rfl
    · rfl
    · exact (siteResultBytes_context c).1
    · exact (siteResultBytes_context c).2
    · rw [siteResultBytes_eq, List.drop_left' (siteResultHead_length c)]
      exact List.flatMap_congr fun l _ => repairLine_bytes_eq l
  · rw [owner.runs (siteResultRequest · _ _) rfl rfl]
    unfold siteResultRequest
    split
    · rename_i h i hd st
      have h4 := headOf_val hd
      have h32 := siteOf_val st
      omega
    · rfl

end Sys2Proof.Machine
end

section
/-!
Raises of run exceptions: one equation for each state of the run, and the two raises of one fail word taken together
(R19, R131 to R133).
-/

namespace Sys2Proof.Machine.State

/-! ## A raise, by the state of the run -/

section
variable (r : Raise) {s : State}

theorem raiseException_active
    (h : s.run.state = .streaming ∨ s.run.state = .deciding ∨ s.run.state = .draining) : s.raiseException r =
      if s.run.masked r.cause then (s.onRun (RunController.setException r.cause.bit)).applyDefault r
      else (s.onRun (RunController.setException r.cause.bit)).holdRun r := by
  rcases h with h | h | h <;> simp only [raiseException, h]

theorem raiseException_held (h : s.run.state = .held) :
    s.raiseException r = ((s.onRun (RunController.setException r.cause.bit)).setMore).applyDefault r := by
  simp only [raiseException, h]

theorem raiseException_halting (h : s.run.state = .halting) :
    s.raiseException r = (s.onRun (RunController.setException r.cause.bit)).applyDefault r := by
  simp only [raiseException, h]

theorem raiseException_idle (h : s.run.state = .none ∨ s.run.state = .starting) : s.raiseException r = s := by
  rcases h with h | h <;> simp only [raiseException, h]

/-- A hold changes the Run Record as R134 and R135 say. -/
theorem holdRun_run (s : State) : (s.holdRun r).run = { s.run with
    hold := some ⟨r, s.run.recordCount, s.gates.levels.length, s.gates.phantom, false⟩
    returnState := some s.run.state
    paused := s.run.paused || (s.run.state == .streaming && !s.run.paused)
    timer := none
    state := .held } := by
  unfold holdRun
  have notice := fun n t => runNotice_same n t .run (by decide)
  simp only [State.agrees] at notice
  rw [notice, onRun_run]
  split <;> rfl

end

/-! ## The raises of fail words -/

section
variable (r : HandedRaise) {s : State}

/-- In NONE, or in a run of another number, a raise of a fail word is discarded (R133). -/
theorem takeRaise_discarded (h : s.run.state = .none ∨ s.run.runNumber ≠ r.runNumber) : s.takeRaise r = s := if_pos h

theorem takeRaise_raised (running : s.run.state ≠ .none) (number : s.run.runNumber = r.runNumber) :
    s.takeRaise r = s.raiseException r.raise := if_neg (by simp [running, number])

/-- The default of a raise of a fail word reads the sites and the run number alone (R128). -/
theorem handedDefault_sites {t : State} (sites : t.sites = s.sites) (number : t.run.runNumber = s.run.runNumber) :
    (t.applyDefault r.raise).sites = (s.applyDefault r.raise).sites := by
  obtain ⟨_, cause, h, i, _, _, _, _⟩ := r
  cases cause with
  | watch => exact sites
  | unmapped => exact sites
  | quota =>
    show upd t.sites h (fun v => upd v i (SiteContext.orderCaptureLost t.run.runNumber)) = _
    rw [sites, number]
    rfl
  | tableFull =>
    show upd t.sites h (fun v => upd v i (SiteContext.orderCaptureLost t.run.runNumber)) = _
    rw [sites, number]
    rfl

end

/-- The WATCH of a word holds the run, and its second exception is taken in that HELD: the Run Record that they leave
(R19, R132, R133). -/
theorem takeRaise_watch_then {a : State} (first second : HandedRaise) (watch : first.cause = .watch)
    (mine : first.runNumber = a.run.runNumber) (same : second.runNumber = a.run.runNumber)
    (active : a.run.state = .streaming ∨ a.run.state = .deciding ∨ a.run.state = .draining)
    (unmasked : a.run.masks.getLsbD Cause.watch.bit = false) :
    let t := (a.takeRaise first).takeRaise second
    t.run.state = .held ∧ t.run.returnState = some a.run.state ∧
      t.run.exceptions = a.run.exceptions ||| (1#9 <<< Cause.watch.bit) ||| (1#9 <<< second.raise.cause.bit) ∧
      t.run.hold = some ⟨first.raise, a.run.recordCount, a.gates.levels.length, a.gates.phantom, true⟩ ∧
      t.sites = (a.applyDefault second.raise).sites := by
  have running : a.run.state ≠ .none := by rcases active with h | h | h <;> simp [h]
  have cause : first.raise.cause = .watch := by simp only [HandedRaise.raise, watch]; rfl
  have held : a.takeRaise first = (a.onRun (RunController.setException Cause.watch.bit)).holdRun first.raise := by
    rw [takeRaise_raised first running mine.symm, raiseException_active _ active, RunController.masked, cause, unmasked]
    rfl
  have run := holdRun_run first.raise (a.onRun (RunController.setException Cause.watch.bit))
  have sites : (a.takeRaise first).sites = a.sites := held ▸ holdRun_same first.raise _ .sites (by decide)
  rw [← held] at run
  have taken : (a.takeRaise first).takeRaise second =
      (((a.takeRaise first).onRun (RunController.setException second.raise.cause.bit)).setMore).applyDefault
        second.raise := by
    rw [takeRaise_raised second (by rw [run]; simp) (by rw [run]; exact same.symm), raiseException_held _ (by rw [run])]
  have last : ((a.takeRaise first).takeRaise second).run =
      (((a.takeRaise first).onRun (RunController.setException second.raise.cause.bit)).setMore).run :=
    taken ▸ handedDefault_same second _ .run (by decide)
  simp only
  refine ⟨?_, ?_, ?_, ?_, ?_⟩
  · rw [last]
    show (a.takeRaise first).run.state = _
    rw [run]
  · rw [last]
    show (a.takeRaise first).run.returnState = _
    rw [run]
    rfl
  · rw [last]
    show (a.takeRaise first).run.exceptions ||| _ = _
    rw [run]
    rfl
  · rw [last]
    show (a.takeRaise first).run.hold.map _ = _
    rw [run]
    rfl
  · rw [taken]
    exact handedDefault_sites second sites (by show (a.takeRaise first).run.runNumber = _; rw [run]; rfl)

end Sys2Proof.Machine.State

namespace Sys2Proof.Machine

open State

/-- Settles O35: a raise goes by the run state and the mask, and a word that raises WATCH by its second raise. -/
theorem raisesByMaskAndRunState : Obligations.RaisesByMaskAndRunState := by
  refine ⟨fun s r => ⟨fun active masked => ?_, fun active unmasked => ?_, fun held => raiseException_held r held,
    fun halting => raiseException_halting r halting, fun idle => raiseException_idle r idle⟩,
    fun s n cause h i k row column follows => ⟨fun out => takeRaise_discarded _ out, fun running number => ?_⟩,
    fun s => ⟨fun none_ => takeRaises_nil none_, fun r rest raises => takeRaises_cons raises⟩,
    fun s first second rest idle raises watch _ follows other mine same active unmasked => ?_⟩
  · rw [raiseException_active r active, RunController.masked, masked]
    rfl
  · rw [raiseException_active r active, RunController.masked, unmasked]
    rfl
  · rw [takeRaise_raised _ running number]
    cases cause <;> rfl
  · have word : ∀ x ∈ [second], x.follows = true := by simpa using follows
    have step_ : step s = .next (((s.onCapture fun c => { c with raises := rest }).takeEach [first, second]).emit) := by
      rw [step_idle idle, takeOldestRaises_word (same := [second]) raises word other]
    have capture := takeEach_same [first, second] (s.onCapture fun c => { c with raises := rest }) .capture (by decide)
    refine ⟨_, step_, congrArg CaptureUnit.raises capture, ?_⟩
    obtain ⟨held, returns, flags, hold, sites⟩ := takeRaise_watch_then (a := s.onCapture fun c => { c with raises := rest })
      first second watch mine same active unmasked
    exact ⟨held, returns, flags, hold, sites.trans (handedDefault_sites second rfl rfl)⟩

end Sys2Proof.Machine
end

section
/-!
The path of an ANALYSE region case by case: a fail that an entry covers or repeats adds a hit, one that none covers goes
by the spares left of its site and region, and the line that a promotion writes stands in the table as an entry reads
(R10 to R18).
-/

namespace Sys2Proof.Machine

/-! ## The table read by index -/

namespace FailTable

/-- An index reads as FREE when its entry is freed, and as before when it is not. -/
theorem read_free (p : Entry → Bool) {t : FailTable} (canonical : t.wf = true) (j : Nat) :
    (t.free p).read j = if ∃ x ∈ t.filter (fun y : Nat × Entry => p y.2), x.1 = j then none else t.read j := by
  have kept := (wf_iff.mp (wf_free p canonical)).1
  split
  · rename_i freed
    obtain ⟨x, hx, rfl⟩ := freed
    obtain ⟨mem, gone⟩ := List.mem_filter.mp hx
    refine read_none_iff.mpr fun y hy same => ?_
    obtain ⟨here, stays⟩ := List.mem_filter.mp hy
    rw [eq_of_index canonical here mem same, gone] at stays
    exact absurd stays (by simp)
  · rename_i stays
    refine Option.ext fun e => ?_
    rw [read_some_iff kept, read_some_iff (wf_iff.mp canonical).1]
    refine ⟨fun h => (List.mem_filter.mp h).1, fun h => List.mem_filter.mpr ⟨h, ?_⟩⟩
    simp only [Bool.not_eq_true', Bool.eq_false_iff]
    exact fun gone => stays ⟨(j, e), List.mem_filter.mpr ⟨h, gone⟩, rfl⟩

/-- The hit of an entry of the table, counted from what stands at its index. -/
theorem setHits_own (limit : Nat) {x : Nat × Entry} {t : FailTable} (canonical : t.wf = true) (mem : x ∈ t) :
    t.setHits x.1 (satInc limit x.2.hits) =
      t.map fun y => if y.1 = x.1 then (y.1, { y.2 with hits := satInc limit y.2.hits }) else y := by
  refine List.map_congr_left fun y hy => ?_
  split
  · rename_i same
    rw [eq_of_index canonical hy mem same]
  · rfl

/-- A key of a site and region finds the one entry that has it (R2). -/
theorem lookup_eq {h : HeadId} {i : SiteId} {k : Nat} {key : EntryKey} {x : Nat × Entry} {t : FailTable} (s : t.Sound)
    (mem : x ∈ t) (region : x.2.ofRegion h i k = true) (own : x.2.key = key) : t.lookup h i k key = some x := by
  cases found : t.lookup h i k key with
  | none =>
    have := List.find?_eq_none.mp found x mem
    simp [region, own] at this
  | some y =>
    obtain ⟨there, both⟩ := And.intro (List.mem_of_find?_eq_some found) (List.find?_some found)
    simp only [Bool.and_eq_true, beq_iff_eq] at both
    obtain ⟨other, repeated⟩ := both
    obtain ⟨rfl, rfl, rfl⟩ := Entry.ofRegion_iff.mp region
    rw [s.keys x mem y there (Entry.sameRegion_iff.mpr other) (own.trans repeated.symm)]

/-- A key that no entry of a site and region has finds none. -/
theorem lookup_eq_none {h : HeadId} {i : SiteId} {k : Nat} {key : EntryKey} {t : FailTable}
    (none_ : ∀ x ∈ t, x.2.ofRegion h i k = true → x.2.key ≠ key) : t.lookup h i k key = none := by
  refine List.find?_eq_none.mpr fun x hx => ?_
  simp only [Bool.and_eq_true, beq_iff_eq, not_and]
  exact none_ x hx

/-- Nothing else of its site and region holds a cell's row or column as a line (R2). -/
theorem Sound.no_line {t : FailTable} (s : t.Sound) {x y : Nat × Entry} {h : HeadId} {i : SiteId} {k : Nat} {r c : Half}
    (hx : x ∈ t) (region : x.2.ofRegion h i k = true) (cell : x.2.key = .cell r c) (hy : y ∈ t)
    (other : y.2.ofRegion h i k = true) : y.2.key ≠ .rowLine r ∧ y.2.key ≠ .colLine c := by
  obtain ⟨rfl, rfl, rfl⟩ := Entry.ofRegion_iff.mp other
  have open_ := s.uncovered y hy x hx (Entry.sameRegion_iff.mpr region)
  rw [cell] at open_
  exact ⟨fun e => by simp [e, EntryKey.covers, EntryKey.cellInRow] at open_,
    fun e => by simp [e, EntryKey.covers, EntryKey.cellInColumn] at open_⟩

end FailTable

namespace State

theorem onSite_congr (h : HeadId) (i : SiteId) {f g : SiteContext → SiteContext} (s : State)
    (e : f (s.site h i) = g (s.site h i)) : s.onSite h i f = s.onSite h i g := by
  unfold onSite
  rw [upd_congr (f := fun v => upd v i f) (g := fun v => upd v i g) s.sites h (upd_congr _ i e)]

/-! ## What the path reads after the fail count and the watch check -/

section
variable (w : FailWord) (k : Nat) (s : State)

theorem watched_table : (s.watched w).capture.table = s.capture.table := (watched_advances w s).table

theorem watched_held : ((s.watched w).site w.head w.site).entriesHeld = (s.site w.head w.site).entriesHeld := by
  rw [watched_own]

theorem watched_spares : ((s.watched w).site w.head w.site).sparesOf k = (s.site w.head w.site).sparesOf k := by
  rw [watched_own]
  rfl

theorem watched_plan :
    (s.watched w).sitePlan ((s.watched w).site w.head w.site) = s.sitePlan (s.site w.head w.site) := by
  have plans : (s.watched w).planAt = s.planAt := (watched_advances w s).plans
  simp only [sitePlan, watched_own, plans]

theorem watched_uncovered : (s.watched w).Uncovered w k ↔ s.Uncovered w k := by
  simp only [Uncovered, watched_table]

theorem watched_cellsUnder (covered : EntryKey → Bool) :
    (s.watched w).cellsUnder w k covered = s.cellsUnder w k covered := by
  simp only [cellsUnder, watched_table]

end

/-! ## The path case by case -/

section
variable {w : FailWord} {k : Nat} {s : State}

/-- The line of the row comes first (R10). -/
theorem analysePath_row {x : Nat × Entry} (row : s.capture.table.lookup w.head w.site k (.rowLine w.row) = some x) :
    s.analysePath w k = s.addHit 255 x := by
  simp only [analysePath, row]

/-- The line of the column comes second (R10). -/
theorem analysePath_column {x : Nat × Entry}
    (row : s.capture.table.lookup w.head w.site k (.rowLine w.row) = none)
    (column : s.capture.table.lookup w.head w.site k (.colLine w.column) = some x) :
    s.analysePath w k = s.addHit 255 x := by
  simp only [analysePath, row, column]

/-- The cell comes third (R11). -/
theorem analysePath_cell {x : Nat × Entry}
    (row : s.capture.table.lookup w.head w.site k (.rowLine w.row) = none)
    (column : s.capture.table.lookup w.head w.site k (.colLine w.column) = none)
    (cell : s.capture.table.lookup w.head w.site k (.cell w.row w.column) = some x) :
    s.analysePath w k = s.addHit 15 x := by
  simp only [analysePath, row, column, cell]

/-- A fail that no entry covers or repeats goes to the check of its row (R12). -/
theorem analysePath_uncovered (open_ : s.Uncovered w k) : s.analysePath w k = s.rowStep w k := by
  have row := FailTable.lookup_eq_none fun x hx region => (open_ x hx region).1
  have column := FailTable.lookup_eq_none fun x hx region => (open_ x hx region).2.1
  have cell := FailTable.lookup_eq_none fun x hx region => (open_ x hx region).2.2
  simp only [analysePath, row, column, cell]

/-- A row within the spare columns leaves the fail to the check of its column (R12). -/
theorem rowStep_within
    (row : (s.cellsInRow w k).length + 1 ≤ ((s.site w.head w.site).sparesOf k).columns) :
    s.rowStep w k = s.columnStep w k := if_pos row

/-- A row over the spare columns with no spare row left is beyond repair (R15). -/
theorem rowStep_spent (row : ((s.site w.head w.site).sparesOf k).columns < (s.cellsInRow w k).length + 1)
    (spent : ((s.site w.head w.site).sparesOf k).rows = 0) : s.rowStep w k = s.markNoRepair w :=
  (if_neg (Nat.not_le.mpr row)).trans (if_pos spent)

/-- A row over the spare columns is promoted with a spare row (R12). -/
theorem rowStep_promotes (row : ((s.site w.head w.site).sparesOf k).columns < (s.cellsInRow w k).length + 1)
    (left : 0 < ((s.site w.head w.site).sparesOf k).rows) :
    s.rowStep w k = s.promote w k (.rowLine w.row) (EntryKey.cellInRow w.row) Spares.takeRow :=
  (if_neg (Nat.not_le.mpr row)).trans (if_neg left.ne')

/-- A column within the spare rows lets the fail be learned (R13, R16). -/
theorem columnStep_within
    (column : (s.cellsInColumn w k).length + 1 ≤ ((s.site w.head w.site).sparesOf k).rows) :
    s.columnStep w k = s.newEntry w k (.cell w.row w.column) id := if_pos column

/-- A column over the spare rows is promoted with a spare column (R13). -/
theorem columnStep_promotes
    (column : ((s.site w.head w.site).sparesOf k).rows < (s.cellsInColumn w k).length + 1)
    (left : 0 < ((s.site w.head w.site).sparesOf k).columns) :
    s.columnStep w k = s.promote w k (.colLine w.column) (EntryKey.cellInColumn w.column) Spares.takeColumn :=
  (if_neg (Nat.not_le.mpr column)).trans (if_neg left.ne')

/-- The table that an added entry leaves is canonical; it reads as the entry at its index, as FREE at those of the cells
taken in, and as before elsewhere. -/
theorem enter_table (i hits : Nat) (key : EntryKey) (covered : EntryKey → Bool) (paid : SiteContext → SiteContext)
    (canonical : s.capture.table.wf = true) (index : i < 4096) :
    (s.enter w k i hits key covered paid).capture.table.wf = true ∧
    ∀ j, (s.enter w k i hits key covered paid).capture.table.read j =
      if j = i then some ⟨w.head, w.site, k, key, hits⟩
      else if ∃ x ∈ s.cellsUnder w k covered, x.1 = j then none else s.capture.table.read j := by
  have freed := FailTable.wf_free (fun e => e.ofRegion w.head w.site k && covered e.key) canonical
  refine ⟨FailTable.wf_write index _ freed, fun j => ?_⟩
  refine (FailTable.read_write (FailTable.wf_iff.mp freed).1 j).trans ?_
  rw [FailTable.read_free _ canonical]
  rfl

end

/-! ## A word on the path -/

namespace Analyses

section
variable {w : FailWord} {k : Nat} {s : State}

/-- A fail whose entry is found adds a hit to it (R10, R11). -/
theorem hits (a : s.Analyses w k) (laws : TableLaws s) (limit : Nat) {x : Nat × Entry} (mem : x ∈ s.capture.table)
    (path : (s.watched w).analysePath w k = (s.watched w).addHit limit x) :
    w.Makes s ((s.watched w).withTable (s.capture.table.map fun y =>
      if y.1 = x.1 then (y.1, { y.2 with hits := if y.2.hits < limit then y.2.hits + 1 else limit }) else y)) := by
  have made := a.makes
  rw [path] at made
  have table : (s.watched w).addHit limit x =
      (s.watched w).withTable ((s.watched w).capture.table.setHits x.1 (satInc limit x.2.hits)) := rfl
  rw [table, watched_table, FailTable.setHits_own limit laws.canonical mem] at made
  exact made

/-- A fail that no entry covers goes to the check of its row. -/
theorem checksRow (open_ : s.Uncovered w k) : (s.watched w).analysePath w k = (s.watched w).rowStep w k :=
  analysePath_uncovered ((watched_uncovered w k s).mpr open_)

/-- One whose row is within the spare columns goes to the check of its column. -/
theorem checksColumn (open_ : s.Uncovered w k)
    (row : (s.cellsInRow w k).length + 1 ≤ ((s.site w.head w.site).sparesOf k).columns) :
    (s.watched w).analysePath w k = (s.watched w).columnStep w k := by
  rw [checksRow open_]
  refine rowStep_within ?_
  rw [watched_spares]
  exact (congrArg (·.length + 1) (watched_cellsUnder w k s _)).trans_le row

variable {key : EntryKey} {paid : SiteContext → SiteContext} {plan : Plan}

/-- A new entry at the quota raises QUOTA (R16, R17). -/
theorem raisesQuota (a : s.Analyses w k) (path : (s.watched w).analysePath w k = (s.watched w).newEntry w k key paid)
    (under : s.sitePlan (s.site w.head w.site) = some plan)
    (quota : (s.site w.head w.site).entriesHeld = plan.quota) :
    w.Makes s ((s.watched w).handing w .quota (some k)) := by
  have made := a.makes
  rw [path, newEntry_quota w k key paid (by rw [watched_held, watched_plan, under, quota]; rfl)] at made
  rw [handing_eq]
  exact made

/-- Below the quota a new entry passes the first part of the exhaustion check. -/
theorem below_quota (under : s.sitePlan (s.site w.head w.site) = some plan)
    (quota : (s.site w.head w.site).entriesHeld ≠ plan.quota) :
    some ((s.watched w).site w.head w.site).entriesHeld ≠
      ((s.watched w).sitePlan ((s.watched w).site w.head w.site)).map Plan.quota := by
  rw [watched_held, watched_plan, under]
  exact fun e => quota (Option.some.inj e)

/-- A new entry with the table full raises TABLE_FULL (R16, R18). -/
theorem raisesFull (a : s.Analyses w k) (laws : TableLaws s)
    (path : (s.watched w).analysePath w k = (s.watched w).newEntry w k key paid)
    (under : s.sitePlan (s.site w.head w.site) = some plan)
    (quota : (s.site w.head w.site).entriesHeld ≠ plan.quota) (full : s.capture.table.length = 4096) :
    w.Makes s ((s.watched w).handing w .tableFull (some k)) := by
  have none_ : (s.watched w).capture.table.lowestFree = none := by
    rw [watched_table]
    exact FailTable.lowestFree_full laws.canonical full
  have made := a.makes
  rw [path, newEntry_full w k key paid (below_quota under quota) none_] at made
  rw [handing_eq]
  exact made

/-- Otherwise the new entry stands in the first FREE entry (R16). -/
theorem entersFirst (laws : TableLaws s) {covered : EntryKey → Bool}
    (path : (s.watched w).analysePath w k = (s.watched w).newEntry w k key paid)
    (under : s.sitePlan (s.site w.head w.site) = some plan)
    (quota : (s.site w.head w.site).entriesHeld ≠ plan.quota) {i : Nat} (first : s.capture.table.FirstFree i)
    (none_ : s.cellsUnder w k covered = []) :
    (s.watched w).analysePath w k = (s.watched w).enter w k i 1 key covered paid := by
  have free : (s.watched w).capture.table.lowestFree = some i := by
    rw [watched_table]
    exact (FailTable.lowestFree_iff laws.canonical i).mpr first
  rw [path, newEntry_enters w k key covered paid (below_quota under quota) free
    ((watched_cellsUnder w k s covered).trans none_)]

/-- A word that adds an entry: the table that it leaves, and what the site holds and pays. -/
theorem enters (a : s.Analyses w k) (laws : TableLaws s) {i hits : Nat} {covered : EntryKey → Bool}
    (path : (s.watched w).analysePath w k = (s.watched w).enter w k i hits key covered paid) (index : i < 4096)
    (f : SiteContext → SiteContext) (site : f ((s.watched w).site w.head w.site) =
      paid { (s.watched w).site w.head w.site with
        entriesHeld := ((s.watched w).site w.head w.site).entriesHeld + 1 - (s.cellsUnder w k covered).length }) :
    ∃ table : FailTable, table.wf = true ∧
      (∀ j, table.read j = if j = i then some ⟨w.head, w.site, k, key, hits⟩
        else if ∃ x ∈ s.cellsUnder w k covered, x.1 = j then none else s.capture.table.read j) ∧
      w.Makes s (((s.watched w).withTable table).onSite w.head w.site f) := by
  have canonical : (s.watched w).capture.table.wf = true := (watched_table w s).symm ▸ laws.canonical
  obtain ⟨wf, read⟩ := enter_table (w := w) (k := k) i hits key covered paid canonical index
  rw [watched_cellsUnder, watched_table] at read
  have entered : (s.watched w).enter w k i hits key covered paid =
      ((s.watched w).withTable ((s.watched w).enter w k i hits key covered paid).capture.table).onSite
        w.head w.site f := onSite_congr _ _ _ (by rw [watched_cellsUnder]; exact site.symm)
  refine ⟨_, wf, read, ?_⟩
  rw [← entered, ← path]
  exact a.makes

end

end Analyses

end State

/-! ## Lines -/

/-- The fail word `w` writes the entry `line` at the index `i`, the cells `freed` read as FREE, and its site holds `now`
entries and has the spares `left` for the region: the shape that R12 to R14 give a promotion. -/
def State.WritesLine (w : FailWord) (k : Nat) (s : State) (i : Nat) (line : EntryKey) (hits : Nat) (freed : FailTable)
    (left : Spares) (now : Nat) : Prop :=
  ∃ table : FailTable, table.wf = true ∧
    (∀ j, table.read j = if j = i then some ⟨w.head, w.site, k, line, hits⟩
      else if ∃ x ∈ freed, x.1 = j then none else s.capture.table.read j) ∧
    w.Makes s (((s.watched w).withTable table).onSite w.head w.site fun c =>
      { c with entriesHeld := now, entry := c.entry.map fun e => { e with spares := e.spares.set k left } })

/-- A word that adds a line, which takes its spare. -/
theorem State.Analyses.writesLine {w : FailWord} {k : Nat} {s : State} (a : s.Analyses w k) (laws : TableLaws s)
    {i hits : Nat} {line : EntryKey} {covered : EntryKey → Bool} {take : Spares → Spares} (index : i < 4096)
    (path : (s.watched w).analysePath w k =
      (s.watched w).enter w k i hits line covered (SiteContext.onSpares k take)) :
    s.WritesLine w k i line hits (s.cellsUnder w k covered) (take ((s.site w.head w.site).sparesOf k))
      ((s.site w.head w.site).entriesHeld + 1 - (s.cellsUnder w k covered).length) :=
  a.enters laws path index _ (by rw [watched_own]; rfl)

/-- A word whose path is a promotion, which writes its line over the cells that it frees or makes it a new entry. -/
theorem State.Analyses.promoted {w : FailWord} {k : Nat} {s : State} (a : s.Analyses w k) (laws : TableLaws s)
    {plan : Plan} (under : s.sitePlan (s.site w.head w.site) = some plan) {line : EntryKey} {covered : EntryKey → Bool}
    {take : Spares → Spares}
    (path : (s.watched w).analysePath w k = (s.watched w).promote w k line covered take) :
    let held := (s.site w.head w.site).entriesHeld
    let cells := s.cellsUnder w k covered
    let left := take ((s.site w.head w.site).sparesOf k)
    (∀ x rest, cells = x :: rest → s.WritesLine w k x.1 line
      (Nat.min 255 ((cells.map fun y => y.2.hits).sum + 1)) cells left (held + 1 - cells.length)) ∧
    (cells = [] → held = plan.quota → w.Makes s ((s.watched w).handing w .quota (some k))) ∧
    (cells = [] → held ≠ plan.quota → s.capture.table.length = 4096 →
      w.Makes s ((s.watched w).handing w .tableFull (some k))) ∧
    (cells = [] → held ≠ plan.quota → ∀ i, s.capture.table.FirstFree i →
      s.WritesLine w k i line 1 [] left (held + 1)) := by
  intro held cells left
  have anew (none_ : cells = []) :
      (s.watched w).analysePath w k = (s.watched w).newEntry w k line (SiteContext.onSpares k take) :=
    path.trans (promote_nil w k line covered take ((watched_cellsUnder w k s covered).trans none_))
  refine ⟨fun x rest here => ?_, fun none_ => a.raisesQuota (anew none_) under,
    fun none_ => a.raisesFull laws (anew none_) under, fun none_ quota i first => ?_⟩
  · have inPlace := path.trans (promote_enters w k line covered take ((watched_cellsUnder w k s covered).trans here))
    rw [watched_cellsUnder] at inPlace
    have mem : x ∈ s.capture.table := List.mem_of_mem_filter (here ▸ List.mem_cons_self .. : x ∈ cells)
    exact a.writesLine laws ((FailTable.wf_iff.mp laws.canonical).2 x mem) inPlace
  · have written := a.writesLine laws first.1 (entersFirst laws (anew none_) under quota first none_)
    rw [show s.cellsUnder w k covered = [] from none_] at written
    exact written

/-! ## The obligations -/

/-- Settles O43: the entry is the one that the path finds first. -/
theorem coveredAndRepeatedFailsAddAHit : Obligations.CoveredAndRepeatedFailsAddAHit :=
  fun w k s x a laws mem region => by
    have found {key : EntryKey} (own : x.2.key = key) :
        (s.watched w).capture.table.lookup w.head w.site k key = some x := by
      rw [State.watched_table]
      exact FailTable.lookup_eq laws.sound mem region own
    have lacks {key : EntryKey}
        (none_ : ∀ y ∈ s.capture.table, y.2.ofRegion w.head w.site k = true → y.2.key ≠ key) :
        (s.watched w).capture.table.lookup w.head w.site k key = none := by
      rw [State.watched_table]
      exact FailTable.lookup_eq_none none_
    refine ⟨fun row => ?_, fun column none_ => ?_, fun cell => ?_⟩
    · exact a.hits laws 255 mem (State.analysePath_row (found row))
    · exact a.hits laws 255 mem (State.analysePath_column (lacks none_) (found column))
    · have lines := fun y hy => laws.sound.no_line (y := y) mem region cell hy
      exact a.hits laws 15 mem (State.analysePath_cell (lacks fun y hy other => (lines y hy other).1)
        (lacks fun y hy other => (lines y hy other).2) (found cell))

/-- Settles O44: the path is a new entry that takes in no cell. -/
theorem aFailIsLearnedUnderTheExhaustionCheck : Obligations.AFailIsLearnedUnderTheExhaustionCheck :=
  fun w k s plan a laws open_ under row column => by
    have path : (s.watched w).analysePath w k = (s.watched w).newEntry w k (.cell w.row w.column) id := by
      rw [State.Analyses.checksColumn open_ row]
      refine State.columnStep_within ?_
      rw [State.watched_spares]
      exact (congrArg (·.length + 1) (State.watched_cellsUnder w k s _)).trans_le column
    have none_ : s.cellsUnder w k (fun _ => false) = [] := by simp [State.cellsUnder]
    refine ⟨a.raisesQuota path under, a.raisesFull laws path under, fun quota i first => ?_⟩
    obtain ⟨table, canonical, read, made⟩ := a.enters laws
      (State.Analyses.entersFirst laws path under quota first none_) first.1
      (fun c => { c with entriesHeld := c.entriesHeld + 1 }) (by rw [none_]; rfl)
    refine ⟨table, canonical, fun j => ?_, made⟩
    rw [read, none_]
    simp only [List.not_mem_nil, false_and, exists_false, if_false]

/-- Settles O45: the path is a promotion, of the row or else of the column. -/
theorem rowsAndColumnsArePromoted : Obligations.RowsAndColumnsArePromoted := by
  rintro w k s plan _ a laws open_ under rfl
  refine ⟨fun row left => a.promoted laws under (take := Spares.takeRow) ?_, fun row column left =>
    a.promoted laws under (take := Spares.takeColumn) ?_⟩
  · rw [State.Analyses.checksRow open_]
    refine State.rowStep_promotes ?_ ?_ <;> rw [State.watched_spares]
    · exact row.trans_eq (congrArg (·.length + 1) (State.watched_cellsUnder w k s _)).symm
    · exact left
  · rw [State.Analyses.checksColumn open_ row]
    refine State.columnStep_promotes ?_ ?_ <;> rw [State.watched_spares]
    · exact column.trans_eq (congrArg (·.length + 1) (State.watched_cellsUnder w k s _)).symm
    · exact left

/-- Settles O46: the check of the row finds no spare row. -/
theorem anUnrepairableSiteIsMarkedNoRepair : Obligations.AnUnrepairableSiteIsMarkedNoRepair := by
  rintro w k s _ a open_ rfl row spent
  have path : (s.watched w).analysePath w k = (s.watched w).markNoRepair w := by
    rw [State.Analyses.checksRow open_]
    refine State.rowStep_spent ?_ ?_ <;> rw [State.watched_spares]
    · exact row.trans_eq (congrArg (·.length + 1) (State.watched_cellsUnder w k s _)).symm
    · exact spent
  have made := a.makes
  rw [path] at made
  rw [← State.watched_table w s]
  exact made

end Sys2Proof.Machine
end

section
/-!
The watch check: what it does without a match, and with one (R22).
-/

namespace Sys2Proof.Machine

/-! ## Sets of indices -/

theorem getLsbD_setOf (n : Nat) (f : Nat → Bool) (k : Nat) : (setOf n f).getLsbD k = (decide (k < n) && f k) := by
  induction n with
  | zero => simp [setOf]
  | succ n ih =>
    rw [setOf, BitVec.getLsbD_cons, ih]
    rcases Nat.lt_trichotomy k n with below | rfl | above
    · simp [below, below.ne, Nat.lt_succ_of_lt below]
    · simp
    · simp [above.ne', Nat.not_lt.mpr above.le, Nat.not_lt.mpr above]

theorem getLsbD_setOfFin {n : Nat} (f : Fin n → Bool) (k : Fin n) : (setOfFin n f).getLsbD k.val = f k := by
  unfold setOfFin
  rw [getLsbD_setOf]
  simp

theorem setOfFin_eq_zero {n : Nat} {f : Fin n → Bool} : setOfFin n f = 0 ↔ ∀ k, f k = false := by
  constructor
  · intro none_ k
    rw [← getLsbD_setOfFin f k, none_]
    exact BitVec.getLsbD_zero
  · intro none_
    refine BitVec.eq_of_getLsbD_eq fun k below => ?_
    rw [getLsbD_setOfFin f ⟨k, below⟩, none_]
    exact BitVec.getLsbD_zero.symm

/-! ## The check -/

theorem Watch.meets_iff {w : FailWord} {e : Watch} : e.meets w = true ↔
    e.valid = true ∧ e.head = w.head ∧ (e.site = none ∨ e.site = some w.site) ∧ e.bank = w.bank ∧ e.row = w.row ∧
      (e.column = none ∨ e.column = some w.column) := by
  simp [Watch.meets, and_assoc]

theorem holdingWatch_iff_exists {w : FailWord} {s : State} :
    holdingWatch w s = true ↔ ∃ k : Fin 4, s.capture.watches[k].meets w = true ∧ s.capture.watches[k].hold = true := by
  simp [holdingWatch]

/-- A match turns the hit flag of its entry on and leaves the rest of the Watch List (R22). -/
theorem CaptureUnit.markHits_eq (w : FailWord) (c : CaptureUnit) : c.markHits w = { c with
    watches := Vector.ofFn fun k => { c.watches[k] with hit := c.watches[k].hit || c.watches[k].meets w } } := by
  unfold markHits
  congr 2
  funext k
  cases met : c.watches[k].meets w <;> simp

/-- The state with the hit flags of the fail word on and its notice queued when enabled (R22). -/
def State.noticed (w : FailWord) (set : BitVec 4) (s : State) : State :=
  let t := s.onCapture (CaptureUnit.markHits w)
  if s.port.config.watchNotices then t.queueNotice (.watchHit w.head w.site w.bank w.row w.column set) else t

/-- What the hit flags and the notice change, block by block. -/
theorem State.noticed_eq (w : FailWord) (set : BitVec 4) (s : State) : s.noticed w set = { s with
    capture := s.capture.markHits w
    port := (if s.port.config.watchNotices then
      s.queueNotice (.watchHit w.head w.site w.bank w.row w.column set) else s).port } := by
  unfold noticed
  by_cases enabled : s.port.config.watchNotices = true
  · simp only [enabled, if_true]
    rfl
  · simp only [enabled]
    rfl

/-- Without a match the watch check changes nothing. -/
theorem watchCheck_unmet {w : FailWord} {s : State} (unmet : ∀ k : Fin 4, s.capture.watches[k].meets w = false) :
    watchCheck w s = s := if_pos (setOfFin_eq_zero.mpr unmet)

/-- With a match it marks, notices, and raises WATCH when a matching entry holds. -/
theorem watchCheck_met {w : FailWord} {s : State} (met : ∃ k : Fin 4, s.capture.watches[k].meets w = true) :
    watchCheck w s = if holdingWatch w s then (s.noticed w (matchingWatches w s)).handRaise w .watch none
      else s.noticed w (matchingWatches w s) := by
  obtain ⟨k, met⟩ := met
  refine if_neg fun none_ => ?_
  have unmet := setOfFin_eq_zero.mp none_ k
  rw [met] at unmet
  exact absurd unmet (by simp)

/-- Settles O42: with and without a match, and with one that holds. -/
theorem theWatchCheckMarksNoticesAndRaises : Obligations.TheWatchCheckMarksNoticesAndRaises := by
  intro w s hit set matches_ bits counted marked
  have met (k : Fin 4) : hit k = counted.capture.watches[k].meets w :=
    Bool.eq_iff_iff.mpr ((matches_ k).trans Watch.meets_iff.symm)
  have indices : matchingWatches w counted = set := BitVec.eq_of_getLsbD_eq fun k below =>
    (getLsbD_setOfFin _ ⟨k, below⟩).trans ((met ⟨k, below⟩).symm.trans (bits ⟨k, below⟩).symm)
  have state : counted.noticed w (matchingWatches w counted) = marked := by
    rw [indices, State.noticed_eq, CaptureUnit.markHits_eq]
    simp only [← met, marked, apply_ite State.port]
    rfl
  refine ⟨fun unmet => ?_, fun ⟨k, some_⟩ free => ?_, fun ⟨k, some_, holds⟩ => ?_⟩
  · exact watchCheck_unmet fun k => (met k).symm.trans (unmet k)
  · refine (watchCheck_met ⟨k, (met k).symm.trans some_⟩).trans ((if_neg fun holding => ?_).trans state)
    obtain ⟨j, meets, holds⟩ := holdingWatch_iff_exists.mp holding
    exact absurd holds (by rw [show counted.capture.watches[j].hold = false from free j ((met j).trans meets)]; simp)
  · have holding : holdingWatch w counted = true :=
      holdingWatch_iff_exists.mpr ⟨k, (met k).symm.trans some_, holds⟩
    rw [State.handing_eq, ← state]
    exact (watchCheck_met ⟨k, (met k).symm.trans some_⟩).trans (if_pos holding)

end Sys2Proof.Machine
end

section
/-!
Fail words are checked, then sorted by region: which frames are discarded, what a word that is taken changes of the
sites, and which region it falls in (R5 to R9).
-/

namespace Sys2Proof.Machine

/-! ## The checks -/

namespace State

/-- A frame whose fields, head or site do not pass the checks carries no fail word (R5). -/
theorem failChecked_none {h : HeadId} {x bank : Byte} {row column : Half} {s : State}
    (fails : 31 < x.toNat ∨ 15 < bank.toNat ∨ 4095 < column.toNat ∨ (s.head h).state ≠ .inRun ∨
      ∃ i : SiteId, x = byteOf i.val ∧ (s.site h i).state ≠ .testing) : s.failChecked h x bank row column = none := by
  unfold failChecked
  split
  · rfl
  · rename_i i found
    refine if_neg fun ⟨inBank, inColumn, running, testing⟩ => ?_
    rcases fails with site | bank_over | column_over | idle | ⟨j, rfl, idle⟩
    · simp [siteOf_above site] at found
    · omega
    · omega
    · exact idle running
    · rw [siteOf_byteOf] at found
      exact idle (Option.some.inj found ▸ testing)

/-- A frame that carries no fail word changes nothing. -/
theorem failFrame_none {h : HeadId} {x bank : Byte} {row column : Half} {s : State} (waits : Bool)
    (none_ : s.failChecked h x bank row column = none) : s.failFrame h x bank row column waits = s := by
  simp only [failFrame, none_]

theorem exec_fail (link : FailLink) (x bank : Byte) (row column : Half) (s : State) :
    exec (.fail link x bank row column) s =
      .next (if s.decodes link.head then s.failFrame link.head x bank row column link.waits else s) := rfl

/-! ## The sites -/

/-- The site of the fail word keeps its fail count, and every other site stays as it is. -/
structure KeepsCount (w : FailWord) (s t : State) : Prop where
  own : (t.site w.head w.site).failCount = (s.site w.head w.site).failCount
  others : ∀ h i, (h ≠ w.head ∨ i ≠ w.site) → t.site h i = s.site h i

section
variable {w : FailWord} {k : Nat} {s t : State}

theorem KeepsCount.of_sites (e : ∀ h i, t.site h i = s.site h i) : KeepsCount w s t :=
  ⟨by rw [e], fun h i _ => e h i⟩

theorem KeepsCount.of_onSite {f : SiteContext → SiteContext} (sites : t.sites = (s.onSite w.head w.site f).sites)
    (kept : ∀ c, (f c).failCount = c.failCount) : KeepsCount w s t := by
  have site (h i) : t.site h i = (s.onSite w.head w.site f).site h i :=
    congrArg (fun v : Vector (Vector SiteContext 32) 4 => v[h][i]) sites
  refine ⟨?_, fun h i other => ?_⟩
  · rw [site, onSite_site, if_pos ⟨rfl, rfl⟩, kept]
  · rw [site, onSite_site, if_neg fun ⟨head, site⟩ => other.elim (· head) (· site)]

/-- What an added entry takes from the spares is no part of the fail count. -/
theorem Adds.keeps_count {c : SiteContext} {key : EntryKey} {covered : EntryKey → Bool} {paid : SiteContext → SiteContext}
    (adds : Adds w k c key covered paid) (d : SiteContext) : (paid d).failCount = d.failCount := by
  cases adds <;> rfl

theorem Path.keepsCount (path : Path w k s t) : KeepsCount w s t := by
  cases path with
  | hit _ _ => exact .of_sites fun _ _ => rfl
  | raise _ => exact .of_sites fun _ _ => rfl
  | mark => exact .of_onSite rfl fun _ => rfl
  | add i hits adds _ => exact .of_onSite rfl fun _ => adds.keeps_count _

theorem failLookup_keepsCount (w : FailWord) (s : State) : KeepsCount w s (s.failLookup w) := by
  have same : KeepsCount w s s := .of_sites fun _ _ => rfl
  unfold failLookup
  split
  · exact .of_onSite rfl fun _ => rfl
  · rename_i k r _
    cases policy : r.policy with
    | ignore => exact same
    | strict => exact .of_onSite rfl fun _ => rfl
    | analyse =>
      show KeepsCount w s (if _ then s else s.analysePath w k)
      split
      · exact same
      · exact (analysePath_path w k s).keepsCount

end

/-- A word that is taken counts once in the fail count of its site (R6). -/
theorem failTaken_failCount (w : FailWord) (s : State) :
    ((s.failTaken w).site w.head w.site).failCount = satInc 65535 (s.site w.head w.site).failCount :=
  (failLookup_keepsCount w (s.watched w)).own.trans (by rw [watched_own])

/-- A word that is taken leaves every other site. -/
theorem failTaken_others (w : FailWord) (s : State) (h : HeadId) (i : SiteId) (other : h ≠ w.head ∨ i ≠ w.site) :
    (s.failTaken w).site h i = s.site h i :=
  ((failLookup_keepsCount w (s.watched w)).others h i other).trans
    ((watched_site w s h i).trans (if_neg fun ⟨head, site⟩ => other.elim (· head) (· site)))

end State

/-! ## The region -/

theorem Region.holds_iff {w : FailWord} {r : Region} : r.holds w = true ↔ r.bank = w.bank ∧ r.rowBase ≤ w.row ∧
    w.row ≤ r.rowLimit ∧ r.columnBase ≤ w.column ∧ w.column ≤ r.columnLimit := by
  simp [Region.holds, and_assoc]

theorem findRegion_none {w : FailWord} {l : List Region} (outside : ∀ r ∈ l, ¬ r.holds w = true) (k : Nat) :
    findRegion w k l = none := by
  induction l generalizing k with
  | nil => rfl
  | cons r l ih =>
    rw [findRegion, if_neg (outside r (List.mem_cons_self ..))]
    exact ih (fun x hx => outside x (List.mem_cons_of_mem _ hx)) (k + 1)

/-- The first region that holds the address is the one that is found (R7). -/
theorem findRegion_first {w : FailWord} {before : List Region} (outside : ∀ x ∈ before, ¬ x.holds w = true) {r : Region}
    (inside : r.holds w = true) (after : List Region) (k : Nat) :
    ∃ n, findRegion w k (before ++ r :: after) = some (n, r) := by
  induction before generalizing k with
  | nil => exact ⟨k, if_pos inside⟩
  | cons x before ih =>
    rw [List.cons_append, findRegion, if_neg (outside x (List.mem_cons_self ..))]
    exact ih (fun y hy => outside y (List.mem_cons_of_mem _ hy)) (k + 1)

namespace State

section
variable {w : FailWord} {s : State} {plan : Plan}

theorem failLookup_unmapped (under : s.sitePlan (s.site w.head w.site) = some plan)
    (outside : findRegion w 0 plan.regions = none) : s.failLookup w = s.failUnmapped w := by
  simp only [failLookup, under, Option.map_some, Option.getD_some, outside]

theorem failLookup_mapped (under : s.sitePlan (s.site w.head w.site) = some plan) {k : Nat} {r : Region}
    (inside : findRegion w 0 plan.regions = some (k, r)) : s.failLookup w = s.failInRegion w k r.policy := by
  simp only [failLookup, under, Option.map_some, Option.getD_some, inside]

/-- On an ANALYSE region a marked site goes no further (R8, R9). -/
theorem failInRegion_marked {k : Nat}
    (marked : (s.site w.head w.site).noRepair = true ∨ (s.site w.head w.site).captureLost = true) :
    s.failInRegion w k .analyse = s := if_pos (by simpa using marked)

end

end State

/-- Settles O41: a frame without a word is discarded, and a word is taken and sorted. -/
theorem failWordsAreCheckedThenSortedByRegion : Obligations.FailWordsAreCheckedThenSortedByRegion := by
  refine ⟨⟨fun h x bank row column waits s fails => ?_, fun w s locked mark bank column head site => ?_⟩,
    fun w s plan locked mark bank column head site under => ?_⟩
  · rw [State.exec_fail]
    by_cases decoded : s.decodes h = true
    · obtain ⟨locked, mark⟩ := State.decodes_iff.mp decoded
      have checks := (fails.resolve_left (not_not.mpr locked)).resolve_left (by simp [mark])
      rw [if_pos decoded, State.failFrame_none waits (State.failChecked_none checks)]
    · rw [if_neg decoded]
  · exact ⟨s.failTaken w, FailWord.makes_failTaken (State.decodes_iff.mpr ⟨locked, mark⟩) ⟨bank, column⟩ head site,
      s.failTaken_failCount w, s.failTaken_others w, (s.failTaken_same w).mono (by decide)⟩
  · have made : w.Makes s ((s.watched w).failLookup w) :=
      FailWord.makes_failTaken (State.decodes_iff.mpr ⟨locked, mark⟩) ⟨bank, column⟩ head site
    have plans := (State.watched_plan w s).trans under
    refine ⟨fun outside => ?_, fun before after r regions outside inside => ?_⟩
    · rw [State.failLookup_unmapped plans
        (findRegion_none (fun r hr holds => outside r hr (Region.holds_iff.mp holds)) 0)] at made
      rw [State.handing_eq]
      exact made
    · obtain ⟨k, found⟩ := findRegion_first (fun x hx holds => outside x hx (Region.holds_iff.mp holds))
        (Region.holds_iff.mpr inside) after 0
      rw [State.failLookup_mapped plans (regions ▸ found)] at made
      refine ⟨fun policy => ?_, fun policy => ?_, fun policy marked => ?_⟩ <;> rw [policy] at made
      · exact made
      · exact made
      · rwa [State.failInRegion_marked (by rw [State.watched_own]; exact marked)] at made

end Sys2Proof.Machine
end

section
/-!
The requests to the Plan Store at their owner: PLAN_LOAD and PLAN_FREE by the slot's use count and the ranges of the
body, PLAN_READ by the slot's record, and the body that a load and a read give back (R39, R41, R42, R186).
-/

namespace Sys2Proof.Machine

/-! ## One slot -/

namespace State

section
variable {i : SlotId} {s : State}

/-- A slot that is not in use is written as a whole: its use count stays 0 (R39, R42). -/
theorem writeSlot_unused (p : Option Plan) (free : s.useCount i = 0) :
    s.writeSlot i p = { s with store := { s.store with slots := upd s.store.slots i fun _ => ⟨p, 0⟩ } } := by
  have slot : ({ s.store.slots[i] with record := p } : PlanSlot) = ⟨p, 0⟩ := congrArg (PlanSlot.mk p) free
  have slots : upd s.store.slots i (fun x => { x with record := p }) = upd s.store.slots i fun _ => ⟨p, 0⟩ :=
    upd_congr _ i slot
  unfold writeSlot onStore
  simp only [slots]

/-- Freeing a slot that is EMPTY changes nothing (R42). -/
theorem writeSlot_empty (empty : s.planAt i = none) : s.writeSlot i none = s := by
  have slot : ({ s.store.slots[i] with record := none } : PlanSlot) = s.store.slots[i] :=
    congrArg (PlanSlot.mk · _) (Eq.symm empty)
  have slots : upd s.store.slots i (fun x => { x with record := none }) = s.store.slots := upd_self _ i slot
  unfold writeSlot onStore
  simp only [slots]

@[simp] theorem writeSlot_planAt (p : Option Plan) (j : SlotId) :
    (s.writeSlot i p).planAt j = if j = i then p else s.planAt j := by
  show (upd s.store.slots i _)[j].record = _
  rw [upd_get]
  split <;> rfl

@[simp] theorem writeSlot_useCount (p : Option Plan) (j : SlotId) : (s.writeSlot i p).useCount j = s.useCount j := by
  show (upd s.store.slots i _)[j].useCount = s.store.slots[j].useCount
  rw [upd_get]
  split
  · rename_i same
    rw [same]
  · rfl

/-- What PLAN_READ answers of an EMPTY slot (R41). -/
theorem planReadBytes_empty (empty : s.planAt i = none) :
    s.planReadBytes i = [byteOf i.val, 0#8, byteOf (s.useCount i)] := by
  simp only [planReadBytes, empty]
  rfl

/-- What PLAN_READ answers of a LOADED slot (R41). -/
theorem planReadBytes_loaded {plan : Plan} (loaded : s.planAt i = some plan) :
    s.planReadBytes i = [byteOf i.val, 1#8, byteOf (s.useCount i)] ++ plan.bytes := by
  simp only [planReadBytes, loaded]
  rfl

end

/-! ## The owner's answers -/

section
variable (q : Request) (p : ControlPort) {b : PlanBody} {slot : Byte} {s : State}

theorem planLoadRequest_noSlot (above : 7 < b.slot.toNat) :
    planLoadRequest q b { s with port := p } = s.answered p q .badValue [] := by
  simp only [planLoadRequest, slotOf_above above, refuse_emit]

theorem planFreeRequest_noSlot (above : 7 < slot.toNat) :
    planFreeRequest q slot { s with port := p } = s.answered p q .badValue [] := by
  simp only [planFreeRequest, slotOf_above above, refuse_emit]

theorem planReadRequest_noSlot (above : 7 < slot.toNat) :
    planReadRequest q slot { s with port := p } = s.answered p q .badValue [] := by
  simp only [planReadRequest, slotOf_above above, refuse_emit]

variable {i : SlotId}

theorem planLoadRequest_inUse (slot : b.slot = byteOf i.val) (used : s.useCount i ≠ 0) :
    planLoadRequest q b { s with port := p } = s.answered p q .inUse [] := by
  simp only [planLoadRequest, slot, slotOf_byteOf]
  exact if_pos used

theorem planLoadRequest_outOfRange (slot : b.slot = byteOf i.val) (free : s.useCount i = 0)
    (out : ¬ PlanBody.InRange b) : planLoadRequest q b { s with port := p } = s.answered p q .badValue [] := by
  have none_ : planOf b = none := Option.not_isSome_iff_eq_none.mp fun made => out ((planOf_isSome b).mp made)
  simp only [planLoadRequest, slot, slotOf_byteOf, none_]
  exact if_neg (not_not.mpr free)

/-- A slot that is not in use takes the plan of the body (R39). -/
theorem planLoadRequest_loads {plan : Plan} (slot : b.slot = byteOf i.val) (free : s.useCount i = 0)
    (made : planOf b = some plan) :
    planLoadRequest q b { s with port := p } = (s.writeSlot i (some plan)).answered p q .ok [] := by
  simp only [planLoadRequest, slot, slotOf_byteOf, made]
  exact if_neg (not_not.mpr free)

theorem planFreeRequest_inUse (used : s.useCount i ≠ 0) :
    planFreeRequest q (byteOf i.val) { s with port := p } = s.answered p q .inUse [] := by
  simp only [planFreeRequest, slotOf_byteOf]
  exact if_pos used

theorem planFreeRequest_frees (free : s.useCount i = 0) :
    planFreeRequest q (byteOf i.val) { s with port := p } = (s.writeSlot i none).answered p q .ok [] := by
  simp only [planFreeRequest, slotOf_byteOf]
  exact if_neg (not_not.mpr free)

theorem planReadRequest_reads :
    planReadRequest q (byteOf i.val) { s with port := p } = s.answered p q .ok (s.planReadBytes i) := by
  simp only [planReadRequest, slotOf_byteOf]
  rfl

end

end State

/-- The bytes of a plan behind others, field by field (R41, R186). -/
theorem Plan.bytes_after (plan : Plan) (front : List Byte) : front ++ plan.bytes =
    front ++ be32 plan.patternId ++ [byteOf plan.planClass.val, plan.joinSet.setWidth 8] ++ be16OfNat plan.quota ++
      [plan.expiry.code, plan.masks.setWidth 8, boolByte plan.autoAnalyse] ++ be16 plan.autoBudget ++
      plan.outcomeMap.toList.map (fun c => c.setWidth 8) ++ [plan.absentCode.setWidth 8] ++
      plan.regions.flatMap Region.bytes := by
  simp only [Plan.bytes, List.append_assoc]

/-! ## The commands at their owner -/

section
variable {tag : Byte} {q : Request} {p : ControlPort} {s : State}

theorem State.AtOwner.planLoad {b : PlanBody} (o : s.AtOwner (.planLoad tag b) q p) :
    exec (.planLoad tag b) s = .next (State.planLoadRequest q b { s with port := p }) :=
  o.runs (State.planLoadRequest · b) rfl rfl

theorem State.AtOwner.planFree {slot : Byte} (o : s.AtOwner (.planFree tag slot) q p) :
    exec (.planFree tag slot) s = .next (State.planFreeRequest q slot { s with port := p }) :=
  o.runs (State.planFreeRequest · slot) rfl rfl

theorem State.AtOwner.planRead {slot : Byte} (o : s.AtOwner (.planRead tag slot) q p) :
    exec (.planRead tag slot) s = .next (State.planReadRequest q slot { s with port := p }) :=
  o.runs (State.planReadRequest · slot) rfl rfl

end

/-- Settles O16: each request by the checks of its rule. -/
theorem planRequestsLoadFreeAndRead : Obligations.PlanRequestsLoadFreeAndRead := by
  refine ⟨fun tag b q p s owner => ⟨fun above => ?_, fun i slot => ⟨fun used => ?_, fun free out => ?_,
    fun free range => ?_⟩⟩, fun tag slot q p s owner => ⟨fun above => ?_, ?_⟩,
    fun tag slot q p s owner => ⟨fun above => ?_, ?_⟩⟩
  · rw [owner.planLoad, State.planLoadRequest_noSlot q p above]
  · rw [owner.planLoad, State.planLoadRequest_inUse q p slot used]
  · rw [owner.planLoad, State.planLoadRequest_outOfRange q p slot free out]
  · obtain ⟨plan, made⟩ := Option.isSome_iff_exists.mp ((planOf_isSome b).mpr range)
    exact ⟨plan, made, by
      rw [owner.planLoad, State.planLoadRequest_loads q p slot free made, State.writeSlot_unused _ free]⟩
  · rw [owner.planFree, State.planFreeRequest_noSlot q p above]
  · rintro i rfl
    refine ⟨fun used => ?_, fun free => ?_, fun free empty => ?_⟩
    · rw [owner.planFree, State.planFreeRequest_inUse q p used.ne']
    · rw [owner.planFree, State.planFreeRequest_frees q p free, State.writeSlot_unused _ free]
    · rw [owner.planFree, State.planFreeRequest_frees q p free, State.writeSlot_empty empty]
  · rw [owner.planRead, State.planReadRequest_noSlot q p above]
  · rintro i rfl
    refine ⟨fun empty => ?_, fun plan loaded => ?_⟩
    · rw [owner.planRead, State.planReadRequest_reads, State.planReadBytes_empty empty]
    · rw [owner.planRead, State.planReadRequest_reads, State.planReadBytes_loaded loaded, Plan.bytes_after]
      rfl

/-- Settles O17: the loaded slot holds the plan of the body, whose bytes are those of the body. -/
theorem planReadAnswersTheLoadedBody : Obligations.PlanReadAnswersTheLoadedBody := by
  intro tag tag2 b i q p s t q2 p2 owner slot free range run reads
  obtain ⟨plan, made⟩ := Option.isSome_iff_exists.mp ((planOf_isSome b).mpr range)
  rw [owner.planLoad, State.planLoadRequest_loads q p slot free made] at run
  obtain rfl := Host.Outcome.next.inj run
  have loaded : ((s.writeSlot i (some plan)).answered p q .ok []).planAt i = some plan :=
    (State.writeSlot_planAt (some plan) i).trans (if_pos rfl)
  have count : ((s.writeSlot i (some plan)).answered p q .ok []).useCount i = 0 :=
    (State.writeSlot_useCount (some plan) i).trans free
  rw [slot] at reads ⊢
  rw [reads.planRead, State.planReadRequest_reads, State.planReadBytes_loaded loaded, count, planOf_bytes made]
  rfl

end Sys2Proof.Machine
end

section
/-!
The account of plan uses: what each head uses a plan by, the account that the use counts keep of it (the twelfth law,
R36 to R38), the steps of a head that leave the account as it is, and the change of one head that the counts follow.
-/

namespace Sys2Proof.Machine

/-! ## What a head uses a plan by -/

/-- What a head uses a plan by: nothing, its queue entry, the run, or the sites it started (section 2.4). -/
inductive Holding where
  | nothing
  | entry
  | run
  | sites

def HeadState.holding : HeadState → Holding
  | .queued => .entry
  | .inRun => .run
  | .analysis => .sites
  | .binWait => .sites
  | _ => .nothing

theorem HeadState.holding_entry {x : HeadState} : x.holding = .entry ↔ x = .queued := by cases x <;> simp [holding]
theorem HeadState.holding_run {x : HeadState} : x.holding = .run ↔ x = .inRun := by cases x <;> simp [holding]

/-- The run is under way: it has been accepted and is not being aborted. -/
def RunState.active : RunState → Bool
  | .streaming => true
  | .deciding => true
  | .draining => true
  | .held => true
  | _ => false

theorem RunState.active_ne_none {x : RunState} (a : x.active = true) : x ≠ .none := by
  rintro rfl
  exact absurd a (by decide)

namespace State

/-- What head `h` uses a plan by. -/
def holding (h : HeadId) (s : State) : Holding := (s.head h).state.holding

theorem holding_of {h : HeadId} {s : State} {x : HeadState} (state : (s.head h).state = x) : s.holding h = x.holding :=
  congrArg HeadState.holding state

/-- The plan slot that head `h` uses by its entry, by the run or by its sites. -/
def slotBy (h : HeadId) (x : Holding) (s : State) : Option SlotId :=
  match x with
  | .nothing => none
  | .entry => (s.arbiter.queue.find? fun e => e.head == h).map QueueEntry.slot
  | .run => s.run.slot
  | .sites => s.siteSlot h

theorem headSlot_eq (h : HeadId) (s : State) : s.headSlot h = s.slotBy h (s.holding h) := by
  unfold headSlot holding
  cases (s.head h).state <;> rfl

theorem headSlot_of {h : HeadId} {x : Holding} {s : State} (e : s.holding h = x) : s.headSlot h = s.slotBy h x :=
  e ▸ headSlot_eq h s

/-- The slot of a queued head is that of its entry. -/
theorem slotBy_entry {s : State} (nodup : (s.arbiter.queue.map QueueEntry.head).Nodup) (h : HeadId) (i : SlotId) :
    s.slotBy h .entry = some i ↔ ∃ e ∈ s.arbiter.queue, e.head = h ∧ e.slot = i := by
  refine Option.map_eq_some_iff.trans ⟨fun ⟨e, found, slot⟩ => ?_, fun ⟨e, mem, head, slot⟩ => ⟨e, ?_, slot⟩⟩
  · exact ⟨e, List.mem_of_find?_eq_some found, by simpa using List.find?_some found, slot⟩
  · cases found : s.arbiter.queue.find? fun e => e.head == h with
    | none => exact absurd head (by simpa using List.find?_eq_none.mp found e mem)
    | some d =>
      have own : d.head = h := by simpa using List.find?_some found
      rw [List.inj_on_of_nodup_map nodup (List.mem_of_find?_eq_some found) mem (own.trans head.symm)]

/-- The slot of the sites of a head is read off the slots that they hold. -/
theorem siteSlot_eq (h : HeadId) (s : State) :
    s.siteSlot h = (List.ofFn fun i => (s.site h i).entry.map RunEntry.slot).findSome? id := by
  have slots : (List.ofFn fun i => (s.site h i).entry.map RunEntry.slot) =
      s.sites[h].toList.map fun c => c.entry.map RunEntry.slot :=
    List.ext_getElem (by simp) fun i _ _ => by simp [State.site, List.getElem_ofFn, -List.ofFn_succ]
  rw [slots, List.findSome?_map, siteSlot, List.map_findSome?]
  rfl

theorem siteSlot_congr {h : HeadId} {s t : State}
    (slots : ∀ i, (t.site h i).entry.map RunEntry.slot = (s.site h i).entry.map RunEntry.slot) :
    t.siteSlot h = s.siteSlot h := by
  simp only [siteSlot_eq, slots]

/-- Sites that hold one slot, and some of them hold it. -/
theorem siteSlot_of {h : HeadId} {s : State} {x : Option SlotId}
    (all : ∀ i e, (s.site h i).entry = some e → x = some e.slot) (some_ : ∃ i, (s.site h i).entry ≠ none) :
    s.siteSlot h = x := by
  obtain ⟨i, held⟩ := some_
  obtain ⟨e, entry⟩ := Option.ne_none_iff_exists'.mp held
  cases found : s.siteSlot h with
  | none =>
    rw [siteSlot_eq, List.findSome?_eq_none_iff] at found
    exact absurd (found _ (List.mem_ofFn.mpr ⟨i, rfl⟩)) (by simp [entry])
  | some k =>
    rw [siteSlot_eq] at found
    obtain ⟨o, mem, same⟩ := List.exists_of_findSome?_eq_some found
    obtain ⟨j, rfl⟩ := List.mem_ofFn.mp mem
    obtain ⟨d, own, rfl⟩ := Option.map_eq_some_iff.mp same
    exact (all j d own).symm

/-! ## The account -/

/-- A set that is not empty has a site in it. -/
theorem exists_site {set : SiteSet} (some_ : set ≠ 0) : ∃ i : SiteId, set.getLsbD i.val = true := by
  by_contra none_
  refine some_ (BitVec.eq_of_getLsbD_eq fun i below => ?_)
  rw [Bool.eq_false_iff.mpr fun on => none_ ⟨⟨i, below⟩, on⟩]
  exact BitVec.getLsbD_zero.symm

/-- The sites of a head are in no run, and those it enables are READY (R47). -/
def Rests (h : HeadId) (s : State) : Prop :=
  ∀ i, (s.site h i).entry = none ∧ ((s.head h).enableSet.getLsbD i.val = true → (s.site h i).state = .ready)

/-- Some site of the head has entered the run, or will when it starts or is aborted before (R48, R56). -/
def Staffs (h : HeadId) (s : State) : Prop :=
  ∃ i, (s.site h i).entry ≠ none ∨ s.run.state.active = false ∧ (s.site h i).state = .ready

/-- The number of heads that use a slot (section 2.4). -/
def users (s : State) (i : SlotId) : Nat := (allHeads.filter fun h => s.headSlot h == some i).length

/-- What a head uses its plan by is there: a queued head has its entry and its sites rest, and the sites of a head in
the run hold the slot of the run. -/
structure InOrder (h : HeadId) (s : State) : Prop where
  queued : s.holding h = .entry ↔ ∃ e ∈ s.arbiter.queue, e.head = h
  rested : s.holding h = .entry → s.Rests h
  current : s.holding h = .run → ∀ i e, (s.site h i).entry = some e → s.run.slot = some e.slot
  staffed : s.holding h = .run → s.Staffs h

/-- The account of uses: every head is in order, each use count is the number of heads that use the slot, and a slot in
use is LOADED (R38). -/
structure Ledger (s : State) : Prop where
  running : s.run.state ≠ .none → s.run.slot ≠ none
  entries : (s.arbiter.queue.map QueueEntry.head).Nodup
  heads : ∀ h, s.InOrder h
  counted : ∀ i, s.useCount i = s.users i
  loaded : ∀ i, s.useCount i ≠ 0 → s.planAt i ≠ none

/-- The account between the events of a step: the heads in the run are those of the group, and there are none without a
run (R89, R91). -/
structure Accounts (s : State) : Prop where
  ledger : s.Ledger
  grouped : ∀ h, s.holding h = .run ↔ s.inGroup h = true
  idle : s.run.state = .none → s.run.group = 0

/-- A slot that a head uses is LOADED. -/
theorem Ledger.used {s : State} (l : s.Ledger) {h : HeadId} {i : SlotId} (slot : s.headSlot h = some i) :
    s.useCount i ≠ 0 ∧ s.planAt i ≠ none := by
  have count : s.useCount i ≠ 0 := fun zero => by
    rw [l.counted, users, List.length_eq_zero_iff, List.filter_eq_nil_iff] at zero
    exact zero h (mem_allHeads h) (by simp [slot])
  exact ⟨count, l.loaded i count⟩

/-- A run with a head in it has a LOADED plan, and its sites take the slot of the run (R48, R56). -/
theorem Ledger.runEntry {s : State} (l : s.Ledger) (running : s.run.state ≠ .none) {h : HeadId}
    (inRun : s.holding h = .run) : ∃ e, s.runEntry = some e ∧ s.run.slot = some e.slot := by
  obtain ⟨i, slot⟩ := Option.ne_none_iff_exists'.mp (l.running running)
  obtain ⟨p, plan⟩ := Option.ne_none_iff_exists'.mp (l.used ((headSlot_of inRun).trans slot)).2
  exact ⟨⟨i, s.run.runNumber, p.spares⟩, by simp [State.runEntry, runPlan, slot, plan], slot⟩

/-! ## What leaves a head in order -/

/-- Head `h` stays in its use of a plan: its sites keep the slots they hold, and the READY ones stay READY unless they
are in a run under way. -/
structure Stays (h : HeadId) (s t : State) : Prop where
  holding : t.holding h = s.holding h
  enables : (t.head h).enableSet = (s.head h).enableSet
  slots : ∀ i, (t.site h i).entry.map RunEntry.slot = (s.site h i).entry.map RunEntry.slot
  ready : ¬ (s.holding h = .run ∧ s.run.state.active = true) → ∀ i, (s.site h i).state = .ready →
    (t.site h i).state = .ready

/-- The same slot of the run, and a run under way was so before. -/
structure RunStays (s t : State) : Prop where
  slot : t.run.slot = s.run.slot
  active : t.run.state.active = true → s.run.state.active = true

section
variable {h : HeadId} {s t u : State}

theorem RunStays.of_eq (e : t.run = s.run) : s.RunStays t := ⟨by rw [e], by rw [e]; exact id⟩

theorem RunStays.trans (a : s.RunStays t) (b : t.RunStays u) : s.RunStays u :=
  ⟨b.slot.trans a.slot, fun x => a.active (b.active x)⟩

/-- The same head, with the same sites. -/
theorem Stays.of_eq (head : t.head h = s.head h) (sites : ∀ i, t.site h i = s.site h i) : Stays h s t :=
  ⟨by rw [State.holding, head]; rfl, by rw [head], fun i => by rw [sites], fun _ i => by rw [sites]; exact id⟩

theorem Stays.trans (run : s.RunStays t) (a : Stays h s t) (b : Stays h t u) : Stays h s u where
  holding := b.holding.trans a.holding
  enables := b.enables.trans a.enables
  slots i := (b.slots i).trans (a.slots i)
  ready calm i x := b.ready (fun ⟨inRun, active⟩ => calm ⟨a.holding ▸ inRun, run.active active⟩) i (a.ready calm i x)

theorem Stays.entry_none (a : Stays h s t) (i : SiteId) : (t.site h i).entry = none ↔ (s.site h i).entry = none := by
  rw [← Option.map_eq_none_iff (f := RunEntry.slot), a.slots, Option.map_eq_none_iff]

/-- A head that stays is in order. -/
theorem InOrder.stays (o : s.InOrder h) (run : s.RunStays t) (a : Stays h s t)
    (queue : ∀ e, e.head = h → (e ∈ t.arbiter.queue ↔ e ∈ s.arbiter.queue)) : t.InOrder h where
  queued := by
    rw [a.holding, o.queued]
    exact exists_congr fun e => and_congr_left fun own => (queue e own).symm
  rested queued i := by
    rw [a.holding] at queued
    obtain ⟨none_, ready⟩ := o.rested queued i
    refine ⟨(a.entry_none i).mpr none_, fun on => a.ready (fun x => ?_) i (ready (a.enables ▸ on))⟩
    exact absurd (queued.symm.trans x.1) (by simp)
  current inRun i e entry := by
    have same := a.slots i
    rw [entry] at same
    obtain ⟨d, before, slot⟩ := Option.map_eq_some_iff.mp same.symm
    rw [run.slot, o.current (a.holding ▸ inRun) i d before, slot]
  staffed inRun := by
    obtain ⟨i, held | ⟨calm, ready⟩⟩ := o.staffed (a.holding ▸ inRun)
    · exact ⟨i, .inl fun none_ => held ((a.entry_none i).mp none_)⟩
    · refine ⟨i, .inr ⟨Bool.eq_false_iff.mpr fun x => ?_, a.ready (fun x => ?_) i ready⟩⟩
      · exact absurd (run.active x) (by simp [calm])
      · exact absurd x.2 (by simp [calm])

/-- A head that stays uses the slot that it used. -/
theorem Stays.headSlot (a : Stays h s t) (slot : t.run.slot = s.run.slot)
    (before : (s.arbiter.queue.map QueueEntry.head).Nodup) (after : (t.arbiter.queue.map QueueEntry.head).Nodup)
    (queue : ∀ e, e.head = h → (e ∈ t.arbiter.queue ↔ e ∈ s.arbiter.queue)) : t.headSlot h = s.headSlot h := by
  rw [headSlot_eq, headSlot_eq, a.holding]
  cases s.holding h with
  | nothing => rfl
  | entry =>
    refine Option.ext fun i => ?_
    rw [slotBy_entry before, slotBy_entry after]
    exact exists_congr fun e => and_congr_left fun own => queue e own.1
  | run => exact slot
  | sites => exact siteSlot_congr a.slots

end

/-! ## Quiet operations -/

/-- Every head stays or uses no plan before and after; the plans, the use counts, the queue and the group stay. -/
structure Quiet (s t : State) : Prop where
  plans : t.planAt = s.planAt
  counts : t.useCount = s.useCount
  queue : t.arbiter.queue = s.arbiter.queue
  group : t.run.group = s.run.group
  run : s.RunStays t
  idle : t.run.state = .none ↔ s.run.state = .none
  heads : ∀ h, Stays h s t ∨ s.holding h = .nothing ∧ t.holding h = .nothing

section
variable {s t u : State}

/-- What leaves the Plan Store, the queue and the run is quiet when it is so for each head. -/
theorem Quiet.of_heads (store : t.store = s.store) (queue : t.arbiter.queue = s.arbiter.queue) (run : t.run = s.run)
    (heads : ∀ h, Stays h s t ∨ s.holding h = .nothing ∧ t.holding h = .nothing) : s.Quiet t :=
  ⟨funext fun i => congrArg (fun p : PlanStore => p.slots[i].record) store,
    funext fun i => congrArg (fun p : PlanStore => p.slots[i].useCount) store, queue, by rw [run], .of_eq run,
    by rw [run], heads⟩

theorem Quiet.refl (s : State) : s.Quiet s := .of_heads rfl rfl rfl fun _ => .inl (.of_eq rfl fun _ => rfl)

theorem Quiet.trans (a : s.Quiet t) (b : t.Quiet u) : s.Quiet u where
  plans := b.plans.trans a.plans
  counts := b.counts.trans a.counts
  queue := b.queue.trans a.queue
  group := b.group.trans a.group
  run := a.run.trans b.run
  idle := b.idle.trans a.idle
  heads h := by
    rcases a.heads h with x | ⟨free, x⟩ <;> rcases b.heads h with y | ⟨freed, y⟩
    · exact .inl (x.trans a.run y)
    · exact .inr ⟨x.holding ▸ freed, y⟩
    · exact .inr ⟨free, y.holding.trans x⟩
    · exact .inr ⟨free, y⟩

theorem Quiet.ite {c : Prop} [Decidable c] (a : s.Quiet t) (b : s.Quiet u) : s.Quiet (if c then t else u) := by
  split <;> assumption

theorem Quiet.holding (a : s.Quiet t) (h : HeadId) : t.holding h = s.holding h := by
  rcases a.heads h with x | ⟨x, y⟩
  · exact x.holding
  · rw [x, y]

theorem Quiet.headSlot (a : s.Quiet t) (l : s.Ledger) (h : HeadId) : t.headSlot h = s.headSlot h := by
  rcases a.heads h with x | ⟨x, y⟩
  · exact x.headSlot a.run.slot l.entries (a.queue ▸ l.entries) fun e _ => by rw [a.queue]
  · rw [headSlot_of x, headSlot_of y]
    rfl

theorem Ledger.quiet (l : s.Ledger) (a : s.Quiet t) : t.Ledger where
  running x := by rw [a.run.slot]; exact l.running fun none_ => x (a.idle.mpr none_)
  entries := a.queue ▸ l.entries
  heads h := by
    rcases a.heads h with x | ⟨x, y⟩
    · exact (l.heads h).stays a.run x fun e _ => by rw [a.queue]
    · have none_ := (l.heads h).queued
      rw [x] at none_
      exact ⟨by rw [y, a.queue]; exact none_, fun q => absurd (y.symm.trans q) (by simp),
        fun q => absurd (y.symm.trans q) (by simp), fun q => absurd (y.symm.trans q) (by simp)⟩
  counted i := by simp only [a.counts, l.counted, users, a.headSlot l]
  loaded i := by rw [a.counts, a.plans]; exact l.loaded i

theorem Accounts.quiet (a : s.Accounts) (q : s.Quiet t) : t.Accounts where
  ledger := a.ledger.quiet q
  grouped h := by rw [q.holding, a.grouped, inGroup, inGroup, q.group]
  idle x := q.group.trans (a.idle (q.idle.mp x))

theorem Accounts.ite {c : Prop} [Decidable c] (a : s.Accounts) (b : t.Accounts) : (if c then s else t).Accounts := by
  split <;> assumption

end

/-! ## The change of one head -/

/-- Every head but `h` stays, with its entry; the run stays. -/
structure Others (h : HeadId) (s t : State) : Prop where
  run : t.run.slot = s.run.slot ∧ t.run.state = s.run.state
  queue : ∀ e : QueueEntry, e.head ≠ h → (e ∈ t.arbiter.queue ↔ e ∈ s.arbiter.queue)
  stays : ∀ k, k ≠ h → Stays k s t

section
variable {h : HeadId} {s t u : State}

theorem Others.runStays (o : Others h s t) : s.RunStays t := ⟨o.run.1, by rw [o.run.2]; exact id⟩

theorem Others.trans (a : Others h s t) (b : Others h t u) : Others h s u :=
  ⟨⟨b.run.1.trans a.run.1, b.run.2.trans a.run.2⟩, fun e x => (b.queue e x).trans (a.queue e x),
    fun k x => (a.stays k x).trans a.runStays (b.stays k x)⟩

/-- What changes none of the blocks that the use of plans stands in. -/
theorem SameBut.others {m : List Block} (a : SameBut m s t)
    (free : ∀ b ∈ [Block.heads, .sites, .arbiter, .run], b ∉ m) (h : HeadId) : Others h s t where
  run := by rw [show t.run = s.run from a .run (free _ (by decide))]; exact ⟨rfl, rfl⟩
  queue e _ := by rw [show t.arbiter = s.arbiter from a .arbiter (free _ (by decide))]
  stays k _ := .of_eq (congrArg (fun v : Vector HeadContext 4 => v[k]) (a .heads (free _ (by decide))))
    fun i => congrArg (fun v : Vector (Vector SiteContext 32) 4 => v[k][i]) (a .sites (free _ (by decide)))

theorem onHead_others (h : HeadId) (f : HeadContext → HeadContext) (s : State) : Others h s (s.onHead h f) :=
  ⟨⟨rfl, rfl⟩, fun _ _ => .rfl, fun _ x => .of_eq ((onHead_head ..).trans (if_neg x)) fun _ => rfl⟩

theorem mapSites_others (h : HeadId) (f : SiteId → SiteContext → SiteContext) (s : State) :
    Others h s (s.mapSites h f) :=
  ⟨⟨rfl, rfl⟩, fun _ _ => .rfl, fun _ x => .of_eq rfl fun _ => (mapSites_site ..).trans (if_neg x)⟩

theorem onRun_others (h : HeadId) {f : RunController → RunController} (s : State)
    (slot : (f s.run).slot = s.run.slot) (state : (f s.run).state = s.run.state) : Others h s (s.onRun f) :=
  ⟨⟨slot, state⟩, fun _ _ => .rfl, fun _ _ => .of_eq rfl fun _ => rfl⟩

theorem onArbiter_others (h : HeadId) {f : Arbiter → Arbiter} (s : State)
    (queue : ∀ e : QueueEntry, e.head ≠ h → (e ∈ (f s.arbiter).queue ↔ e ∈ s.arbiter.queue)) :
    Others h s (s.onArbiter f) :=
  ⟨⟨rfl, rfl⟩, queue, fun _ _ => .of_eq rfl fun _ => rfl⟩

/-- The users of a slot before and after a change of one head. -/
theorem users_change {h : HeadId} {s t : State} (same : ∀ k, k ≠ h → t.headSlot k = s.headSlot k) (i : SlotId) :
    t.users i + (if s.headSlot h = some i then 1 else 0) = s.users i + (if t.headSlot h = some i then 1 else 0) := by
  have one : ∀ r : State, r.users i = (if r.headSlot h = some i then 1 else 0) +
      ((allHeads.erase h).filter fun k => r.headSlot k == some i).length := fun r => by
    unfold users
    rw [← List.countP_eq_length_filter, ← List.countP_eq_length_filter,
      (List.perm_cons_erase (mem_allHeads h)).countP_eq, List.countP_cons, Nat.add_comm]
    simp only [beq_iff_eq]
  have rest : ((allHeads.erase h).filter fun k => t.headSlot k == some i) =
      (allHeads.erase h).filter fun k => s.headSlot k == some i := List.filter_congr fun k mem => by
    rw [same k (((by decide : allHeads.Nodup).mem_erase_iff).mp mem).1]
  rw [one t, one s, rest]
  omega

/-- One head changes in its use of a plan, and the use counts follow it (R36, R37). -/
theorem Ledger.change (l : s.Ledger) (o : Others h s t) (own : t.InOrder h)
    (entries : (t.arbiter.queue.map QueueEntry.head).Nodup) (plans : t.planAt = s.planAt)
    (counts : ∀ i, t.useCount i + (if s.headSlot h = some i then 1 else 0) =
      s.useCount i + (if t.headSlot h = some i then 1 else 0))
    (loaded : ∀ i, t.headSlot h = some i → s.planAt i ≠ none) : t.Ledger where
  running x := by rw [o.run.1]; exact l.running (o.run.2 ▸ x)
  entries := entries
  heads k := by
    by_cases e : k = h
    · exact e ▸ own
    · exact (l.heads k).stays o.runStays (o.stays k e) fun x head => o.queue x fun y => e (head.symm.trans y)
  counted i := by
    have users := users_change (h := h) (s := s) (t := t) (fun k e => (o.stays k e).headSlot o.run.1 l.entries entries
      fun x head => o.queue x fun y => e (head.symm.trans y)) i
    have before := l.counted i
    have after := counts i
    omega
  loaded i used := by
    rw [plans]
    by_cases e : t.headSlot h = some i
    · exact loaded i e
    · have after := counts i
      rw [if_neg e] at after
      exact l.loaded i (by omega)

theorem dropUse_planAt (o : Option SlotId) (s : State) : (s.dropUse o).planAt = s.planAt := (dropUse_advances o s).plans

theorem dropUse_useCount (o : Option SlotId) (s : State) (i : SlotId) :
    (s.dropUse o).useCount i = s.useCount i - if o = some i then 1 else 0 := by
  cases o with
  | none => rfl
  | some j =>
    show (upd s.store.slots j _)[i].useCount = s.store.slots[i].useCount - _
    rw [upd_get]
    by_cases e : i = j
    · subst e
      rw [if_pos rfl, if_pos rfl]
    · rw [if_neg e, if_neg fun x => e (Option.some.inj x).symm]
      rfl

theorem useSlot_useCount (j : SlotId) (s : State) (i : SlotId) :
    (s.useSlot j).useCount i = s.useCount i + if some j = some i then 1 else 0 := by
  show (upd s.store.slots j _)[i].useCount = s.store.slots[i].useCount + _
  rw [upd_get]
  by_cases e : i = j
  · subst e
    rw [if_pos rfl, if_pos rfl]
  · rw [if_neg e, if_neg fun x => e (Option.some.inj x).symm]
    rfl

/-- A head that uses nothing and has no entry is in order. -/
theorem InOrder.free (free : t.holding h = .nothing) (gone : ∀ e ∈ t.arbiter.queue, e.head ≠ h) : t.InOrder h where
  queued := ⟨fun x => absurd (free.symm.trans x) (by simp), fun ⟨e, mem, own⟩ => absurd own (gone e mem)⟩
  rested x := absurd (free.symm.trans x) (by simp)
  current x := absurd (free.symm.trans x) (by simp)
  staffed x := absurd (free.symm.trans x) (by simp)

/-- A head that is not queued has no entry. -/
theorem Ledger.no_entry (l : s.Ledger) (away : s.holding h ≠ .entry) : ∀ e ∈ s.arbiter.queue, e.head ≠ h :=
  fun e mem own => away ((l.heads h).queued.mpr ⟨e, mem, own⟩)

/-- A head stops using its plan, and the use count of the slot falls by one (R37). -/
theorem Ledger.leaves (l : s.Ledger) (o : Others h s t) (free : t.holding h = .nothing)
    (queue : t.arbiter.queue = s.arbiter.queue.filter fun e => e.head != h)
    (store : t.store = (s.dropUse (s.headSlot h)).store) : t.Ledger := by
  have slot : t.headSlot h = none := headSlot_of free
  refine l.change o (.free free fun e mem => ?_) ?_ ?_ (fun i => ?_) fun i x => absurd (slot.symm.trans x) (by simp)
  · rw [queue] at mem
    simpa using (List.mem_filter.mp mem).2
  · rw [queue]
    exact l.entries.sublist (List.filter_sublist.map _)
  · rw [← dropUse_planAt (s.headSlot h) s]
    exact funext fun i => congrArg (fun p : PlanStore => p.slots[i].record) store
  · have count : t.useCount i = (s.dropUse (s.headSlot h)).useCount i :=
      congrArg (fun p : PlanStore => p.slots[i].useCount) store
    rw [count, dropUse_useCount, slot]
    by_cases e : s.headSlot h = some i
    · have used := (l.used e).1
      simp only [e, if_true, reduceCtorEq, if_false]
      omega
    · simp only [e, if_false, reduceCtorEq]
      rfl

/-- The same for a head that has no entry, the queue staying as it is. -/
theorem Ledger.leaves_unqueued (l : s.Ledger) (o : Others h s t) (away : s.holding h ≠ .entry)
    (free : t.holding h = .nothing) (queue : t.arbiter.queue = s.arbiter.queue)
    (store : t.store = (s.dropUse (s.headSlot h)).store) : t.Ledger := by
  refine l.leaves o free (queue.trans (Eq.symm (List.filter_eq_self.mpr fun e mem => ?_))) store
  simpa using l.no_entry away e mem

/-- A head of the run ends with sites that hold the slot of the run, and its use goes on by them (R37). -/
theorem Ledger.ends (l : s.Ledger) (o : Others h s t) (inRun : s.holding h = .run) (ended : t.holding h = .sites)
    (slot : t.siteSlot h = s.run.slot) (queue : t.arbiter.queue = s.arbiter.queue) (store : t.store = s.store) :
    t.Ledger := by
  have same : t.headSlot h = s.headSlot h := by rw [headSlot_of inRun, headSlot_of ended]; exact slot
  have gone := l.no_entry (h := h) (by simp [inRun])
  refine l.change o ⟨⟨fun x => absurd (ended.symm.trans x) (by simp), fun ⟨e, mem, own⟩ => ?_⟩,
    fun x => absurd (ended.symm.trans x) (by simp), fun x => absurd (ended.symm.trans x) (by simp),
    fun x => absurd (ended.symm.trans x) (by simp)⟩ (queue ▸ l.entries) ?_ (fun i => ?_) fun i x => ?_
  · exact absurd own (gone e (queue ▸ mem))
  · exact funext fun i => congrArg (fun p : PlanStore => p.slots[i].record) store
  · rw [same, show t.useCount i = s.useCount i from congrArg (fun p : PlanStore => p.slots[i].useCount) store]
  · exact (l.used (same.symm.trans x)).2

end

/-! ## Loops over heads -/

/-- One turn of a loop over the heads of a set. -/
def visit (set : HeadSet) (f : HeadId → State → State) (t : State) (h : HeadId) : State :=
  if set.getLsbD h.val then f h t else t

section
variable {P : State → Prop} {Q R : HeadId → State → Prop} {f : HeadId → State → State} {set : HeadSet}

/-- What is done for a head lasts through the turns of others. -/
theorem foldl_visit_lasts (lasts : ∀ h k t, k ≠ h → R k t → R k (f h t)) {k : HeadId} {l : List HeadId} (away : k ∉ l)
    {t : State} (done : R k t) : R k (l.foldl (visit set f) t) := by
  induction l generalizing t with
  | nil => exact done
  | cons a rest ih =>
    refine ih (fun x => away (List.mem_cons_of_mem _ x)) ?_
    unfold visit
    split
    · exact lasts a k t (fun e => away (e ▸ List.mem_cons_self)) done
    · exact done

theorem foldl_visit_each (body : ∀ h t, P t → Q h t → P (f h t) ∧ R h (f h t))
    (waits : ∀ h k t, k ≠ h → Q k t → Q k (f h t)) (lasts : ∀ h k t, k ≠ h → R k t → R k (f h t))
    {l : List HeadId} (nodup : l.Nodup) {t : State} (start : P t)
    (ready : ∀ h ∈ l, set.getLsbD h.val = true → Q h t) :
    P (l.foldl (visit set f) t) ∧ ∀ h ∈ l, set.getLsbD h.val = true → R h (l.foldl (visit set f) t) := by
  induction l generalizing t with
  | nil => exact ⟨start, fun _ mem => absurd mem List.not_mem_nil⟩
  | cons a rest ih =>
    obtain ⟨away, nodup⟩ := List.nodup_cons.mp nodup
    have later : ∀ h ∈ rest, h ≠ a := fun h x e => away (e ▸ x)
    rw [List.foldl_cons]
    by_cases mem : set.getLsbD a.val = true
    · rw [show visit set f t a = f a t from if_pos mem]
      obtain ⟨after, done⟩ := body a t start (ready a List.mem_cons_self mem)
      obtain ⟨final, each⟩ := ih nodup after fun h x y => waits a h t (later h x) (ready h (List.mem_cons_of_mem _ x) y)
      refine ⟨final, fun h x y => ?_⟩
      rcases List.mem_cons.mp x with rfl | x
      · exact foldl_visit_lasts lasts away done
      · exact each h x y
    · rw [show visit set f t a = t from if_neg mem]
      obtain ⟨final, each⟩ := ih nodup start fun h x y => ready h (List.mem_cons_of_mem _ x) y
      refine ⟨final, fun h x y => ?_⟩
      rcases List.mem_cons.mp x with rfl | x
      · exact absurd y mem
      · exact each h x y

/-- A loop that does its work head by head: what waits for a head is left alone until its turn, and what is done for it
lasts. -/
theorem forHeads_each (body : ∀ h t, P t → Q h t → P (f h t) ∧ R h (f h t))
    (waits : ∀ h k t, k ≠ h → Q k t → Q k (f h t)) (lasts : ∀ h k t, k ≠ h → R k t → R k (f h t))
    {s : State} (start : P s) (ready : ∀ h, set.getLsbD h.val = true → Q h s) :
    P (s.forHeads set f) ∧ ∀ h, set.getLsbD h.val = true → R h (s.forHeads set f) := by
  obtain ⟨final, each⟩ := foldl_visit_each body waits lasts (by decide : allHeads.Nodup) start fun h _ => ready h
  exact ⟨final, fun h => each h (mem_allHeads h)⟩

/-- A loop whose body may use that its head is in the set. -/
theorem forHeads_keeps_of_mem (body : ∀ k t, set.getLsbD k.val = true → P t → P (f k t)) {s : State} (start : P s) :
    P (s.forHeads set f) :=
  (forHeads_each (Q := fun h _ => set.getLsbD h.val = true) (R := fun _ _ => True)
    (fun h t p mem => ⟨body h t mem p, trivial⟩) (fun _ _ _ _ mem => mem) (fun _ _ _ _ _ => trivial) start
    fun _ mem => mem).1

end

end State
end Sys2Proof.Machine
end

section
/-!
The account of plan uses in a run: what the gates and the run exceptions leave alone, the ends of a run, the drop of a
head, the start and the grant (R36, R37, R48, R56, R89, R96, R100, R102, R109).
-/

namespace Sys2Proof.Machine.State

/-! ## Quiet updates -/

/-- What changes none of the blocks that the use of plans stands in. -/
theorem SameBut.quiet {m : List Block} {s t : State} (a : SameBut m s t)
    (free : ∀ b ∈ [Block.store, .heads, .arbiter, .run, .sites], b ∉ m) : s.Quiet t := by
  have store : t.store = s.store := a .store (free _ (by decide))
  have heads : t.heads = s.heads := a .heads (free _ (by decide))
  have arbiter : t.arbiter = s.arbiter := a .arbiter (free _ (by decide))
  have run : t.run = s.run := a .run (free _ (by decide))
  have sites : t.sites = s.sites := a .sites (free _ (by decide))
  exact .of_heads store (by rw [arbiter]) run fun h => .inl (.of_eq
    (congrArg (fun v : Vector HeadContext 4 => v[h]) heads)
    fun i => congrArg (fun v : Vector (Vector SiteContext 32) 4 => v[h][i]) sites)

/-- A head changes in fields that no use of a plan stands in, or between states that use none. -/
theorem onHead_quiet (h : HeadId) {f : HeadContext → HeadContext} (s : State)
    (stays : (f (s.head h)).state.holding = s.holding h ∧ (f (s.head h)).enableSet = (s.head h).enableSet ∨
      s.holding h = .nothing ∧ (f (s.head h)).state.holding = .nothing) : s.Quiet (s.onHead h f) := by
  refine .of_heads rfl rfl rfl fun k => ?_
  by_cases e : k = h
  · subst e
    have own : (s.onHead k f).head k = f (s.head k) := (onHead_head ..).trans (if_pos rfl)
    simp only [holding] at stays
    rcases stays with ⟨holds, enables⟩ | ⟨free, freed⟩
    · exact .inl ⟨by rw [holding, own, holds]; rfl, by rw [own, enables], fun _ => rfl, fun _ _ x => x⟩
    · exact .inr ⟨free, by rw [holding, own, freed]⟩
  · exact .inl ((onHead_others h f s).stays k e)

/-- The run changes in fields that no use of a plan stands in. -/
theorem onRun_quiet {f : RunController → RunController} (s : State)
    (slot : (f s.run).slot = s.run.slot) (group : (f s.run).group = s.run.group)
    (idle : (f s.run).state = .none ↔ s.run.state = .none)
    (active : (f s.run).state.active = true → s.run.state.active = true) : s.Quiet (s.onRun f) :=
  ⟨rfl, rfl, rfl, group, ⟨slot, active⟩, idle, fun _ => .inl (.of_eq rfl fun _ => rfl)⟩

/-- The run changes in none of slot, group and state. -/
theorem onRun_quiet_same {f : RunController → RunController} (s : State) (slot : (f s.run).slot = s.run.slot)
    (group : (f s.run).group = s.run.group) (state : (f s.run).state = s.run.state) : s.Quiet (s.onRun f) :=
  onRun_quiet s slot group (by rw [state]) (by rw [state]; exact id)

/-- Sites keep the slots that they hold, and the READY ones stay READY outside a run under way. -/
theorem mapSites_quiet (h : HeadId) {f : SiteId → SiteContext → SiteContext} {s : State}
    (slots : ∀ i, (f i (s.site h i)).entry.map RunEntry.slot = (s.site h i).entry.map RunEntry.slot)
    (ready : ¬ (s.holding h = .run ∧ s.run.state.active = true) → ∀ i, (s.site h i).state = .ready →
      (f i (s.site h i)).state = .ready) : s.Quiet (s.mapSites h f) := by
  refine .of_heads rfl rfl rfl fun k => ?_
  by_cases e : k = h
  · subst e
    have own : ∀ i, (s.mapSites k f).site k i = f i (s.site k i) := fun i => (mapSites_site ..).trans (if_pos rfl)
    exact .inl ⟨rfl, rfl, fun i => by rw [own, slots], fun calm i x => by rw [own]; exact ready calm i x⟩
  · exact .inl ((mapSites_others h f s).stays k e)

/-- One site keeps the slot that it holds, and stays READY if it is. -/
theorem onSite_quiet (h : HeadId) (i : SiteId) {f : SiteContext → SiteContext} {s : State}
    (slot : (f (s.site h i)).entry.map RunEntry.slot = (s.site h i).entry.map RunEntry.slot)
    (ready : (s.site h i).state = .ready → (f (s.site h i)).state = .ready) : s.Quiet (s.onSite h i f) := by
  refine .of_heads rfl rfl rfl fun k => ?_
  refine .inl ⟨rfl, rfl, fun j => ?_, fun _ j x => ?_⟩ <;> rw [onSite_site] <;> split
  · rename_i e
    obtain ⟨rfl, rfl⟩ := e
    exact slot
  · rfl
  · rename_i e
    obtain ⟨rfl, rfl⟩ := e
    exact ready x
  · exact x

section
variable (h : HeadId) (s : State)

theorem raiseFlag_quiet (flag : BitVec 10) : s.Quiet (s.raiseFlag h flag) := onHead_quiet h s (.inl ⟨rfl, rfl⟩)

theorem onPort_quiet (f : ControlPort → ControlPort) : s.Quiet (s.onPort f) := (onPort_same f s).quiet (by decide)
theorem onGates_quiet (f : GateUnit → GateUnit) : s.Quiet (s.onGates f) := (onGates_same f s).quiet (by decide)
theorem onCapture_quiet (f : CaptureUnit → CaptureUnit) : s.Quiet (s.onCapture f) :=
  (onCapture_same f s).quiet (by decide)
theorem onAlloc_quiet (f : Allocator → Allocator) : s.Quiet (s.onAlloc f) := (onAlloc_same f s).quiet (by decide)
theorem onBin_quiet (f : BinPort → BinPort) : s.Quiet (s.onBin h f) := (onBin_same h f s).quiet (by decide)
theorem onLines_quiet (f : HandlerLines → HandlerLines) : s.Quiet (s.onLines h f) :=
  (onLines_same h f s).quiet (by decide)
theorem sendHead_quiet (f : HeadFrame) : s.Quiet (s.sendHead h f) := (sendHead_same h f s).quiet (by decide)
theorem sendSource_quiet (m : SourceMessage) : s.Quiet (s.sendSource m) := (sendSource_same m s).quiet (by decide)
theorem answer_quiet (k t : Byte) (st : Status) (f : List Byte) : s.Quiet (s.answer k t st f) :=
  (answer_same k t st f s).quiet (by decide)
theorem runNotice_quiet (n : Notice) : s.Quiet (s.runNotice n) := (runNotice_same n s).quiet (by decide)
theorem emit_quiet : s.Quiet s.emit := (emit_same s).quiet (by decide)
theorem startEngine_quiet : s.Quiet s.startEngine := (startEngine_same s).quiet (by decide)

theorem flushHead_quiet : s.Quiet (s.flushHead h) := by
  have cleared : s.Quiet (s.onHead h fun c => { c with raised := 0 }) := onHead_quiet h s (.inl ⟨rfl, rfl⟩)
  exact cleared.ite (cleared.trans ((queueNotice_same _ _).quiet (by decide)))

theorem flushEvents_quiet : s.Quiet s.flushEvents := by
  unfold flushEvents
  generalize allHeads = l
  induction l generalizing s with
  | nil => exact .refl s
  | cons k rest ih => exact (flushHead_quiet k s).trans (ih _)

end

section
variable {s : State} (a : s.Accounts)
include a

theorem Accounts.emitted : s.emit.Accounts := a.quiet (emit_quiet s)
theorem Accounts.reported : s.report.Accounts := a.quiet ((flushEvents_quiet s).trans (emit_quiet _))
theorem Accounts.served : s.serve.Accounts := a.quiet ((startEngine_quiet s).trans (emit_quiet _))
theorem Accounts.answered (k t : Byte) (st : Status) (f : List Byte) : (s.answer k t st f).Accounts :=
  a.quiet (answer_quiet s k t st f)
theorem Accounts.replied (q : Request) (f : List Byte) : (s.answerOk q f).emit.Accounts := (a.answered _ _ _ f).emitted
theorem Accounts.refused (q : Request) (st : Status) : (s.refuse q st).emit.Accounts := (a.answered _ _ st []).emitted

end

/-! ## Gates -/

/-- Quiet, and the Run Controller stays. -/
structure Plays (s t : State) : Prop where
  quiet : s.Quiet t
  run : t.run = s.run

section
variable {s t u : State}

theorem Plays.refl (s : State) : s.Plays s := ⟨.refl s, rfl⟩
theorem Plays.trans (a : s.Plays t) (b : t.Plays u) : s.Plays u := ⟨a.quiet.trans b.quiet, b.run.trans a.run⟩
theorem Plays.active (a : s.Plays t) (active : s.run.state.active = true) : t.run.state.active = true := by
  rw [a.run]
  exact active
theorem Plays.ite {c : Prop} [Decidable c] (a : s.Plays t) (b : s.Plays u) : s.Plays (if c then t else u) := by
  split <;> assumption

theorem SameBut.plays {m : List Block} (a : SameBut m s t)
    (free : ∀ b ∈ [Block.store, .heads, .arbiter, .run, .sites], b ∉ m) : s.Plays t :=
  ⟨a.quiet free, a .run (free _ (by decide))⟩

/-- Sites of a head in a run under way keep their run entries. -/
theorem mapSites_plays {h : HeadId} {f : SiteId → SiteContext → SiteContext} (inRun : s.holding h = .run)
    (active : s.run.state.active = true) (kept : ∀ i c, (f i c).entry = c.entry) : s.Plays (s.mapSites h f) :=
  ⟨mapSites_quiet h (fun i => by rw [kept]) fun calm => absurd ⟨inRun, active⟩ calm, rfl⟩

/-- A loop over the group of a run under way. -/
theorem Accounts.forHeads_plays {f : HeadId → State → State} (a : s.Accounts) (active : s.run.state.active = true)
    (body : ∀ h (t : State), t.holding h = .run → t.run.state.active = true → t.Plays (f h t)) :
    s.Plays (s.forHeads s.run.group f) :=
  forHeads_keeps_of_mem (P := s.Plays) (fun k t mem p => p.trans
    (body k t ((p.quiet.holding k).trans ((a.grouped k).mpr mem)) (p.active active))) (.refl s)

section
variable {h : HeadId} (inRun : s.holding h = .run) (active : s.run.state.active = true)
include inRun active

theorem parkSites_plays (d p : Nat) (set : SiteSet) : s.Plays (s.parkSites d p set h) :=
  (mapSites_plays inRun active fun i c => by split <;> rfl).trans ((sendHead_same h _ _).plays (by decide))

theorem unparkSites_plays (d : Nat) (set : SiteSet) : s.Plays (s.unparkSites d set h) :=
  (mapSites_plays inRun active fun i c => by split <;> rfl).trans ((sendHead_same h _ _).plays (by decide))

theorem expireSites_plays (p : Expiry) (d : Nat) (set : SiteSet) : s.Plays (s.expireSites p d set h) := by
  unfold expireSites
  split
  · have dropped : s.Plays (s.mapSites h fun i c =>
        if set.getLsbD i.val then { c with expired := true, state := .dropped } else c) :=
      mapSites_plays inRun active fun i c => by split <;> rfl
    exact dropped.ite (dropped.trans ((sendHead_same h _ _).plays (by decide)))
  · exact mapSites_plays inRun active fun i c => by split <;> rfl

end

section
variable (a : s.Accounts) (active : s.run.state.active = true)
include a active

theorem Accounts.exitLevel (l : GateLevel) (b : List GateLevel) : s.Plays (s.exitLevel l b) :=
  ((a.forHeads_plays active fun _ _ inRun under => unparkSites_plays inRun under _ _).trans
    ((onGates_same _ _).plays (by decide))).trans ((sendSource_same _ _).plays (by decide))

theorem Accounts.decideLevel (l : GateLevel) (b : List GateLevel) : s.Plays (s.decideLevel l b) := by
  have expired (policy : Expiry) : s.Plays (s.forHeads s.run.group fun h =>
      expireSites policy (b.length + 1) (s.remainingSites l h) h) :=
    a.forHeads_plays active fun _ _ inRun under => expireSites_plays inRun under _ _ _
  unfold State.decideLevel
  exact (a.exitLevel active l b).ite (((expired _).trans ((a.quiet (expired _).quiet).exitLevel
    ((expired _).active active) l b)).ite ((repeatLevel_same l b s).plays (by decide)))

/-- A gate decision of a run under way leaves the account as it is (R120 to R125). -/
theorem Accounts.makeDecision : s.Quiet s.makeDecision := by
  unfold State.makeDecision
  split
  · exact .refl s
  · rename_i lvl below _
    have parked := a.forHeads_plays active fun h t inRun under =>
      parkSites_plays inRun under (below.length + 1) (lvl.passCount + 1) (s.matchedSites lvl h)
    have decided := parked.trans ((a.quiet parked.quiet).decideLevel (parked.active active) (s.parkedLevel lvl) below)
    refine decided.quiet.trans ((onRun_quiet _ rfl rfl ?_ fun _ => decided.active active).trans (onGates_quiet _ _))
    rw [decided.run]
    exact ⟨fun x => absurd x (by simp), fun x => absurd x (RunState.active_ne_none active)⟩

end

/-! ## Abort -/

/-- An abort takes the run from under way to HALTING, and no head leaves it (R101). -/
theorem abortRun_quiet (c : RunAbort) (s : State) : s.Quiet (s.abortRun c) := by
  unfold abortRun
  split
  · exact .refl s
  · rename_i running
    have sent : SameBut [.wire] s ((s.sendSource .halt).forHeads s.run.group fun h => sendHead h .runStop) :=
      (sendSource_same _ s).comp (forHeads_same (fun h t => sendHead_same h _ t) _ _) (by decide) (by decide)
    refine (sent.quiet (by decide)).trans (onRun_quiet _ rfl rfl ?_ fun x => absurd x (by simp [RunState.active]))
    rw [show (forHeads s.run.group (fun h => sendHead h .runStop) (s.sendSource .halt)).run = s.run from
      sent .run (by decide)]
    exact ⟨fun x => absurd x (by simp), fun x => absurd (.inl x) running⟩

theorem feedFault_quiet (f : RunFault) (s : State) : s.Quiet (s.feedFault f) :=
  ((onRun_quiet_same s rfl rfl rfl).trans ((setPartFlag_same _ _).quiet (by decide))).trans (abortRun_quiet _ _)

/-! ## The ends of a run -/

/-- With no head in it, the run ends (R91). -/
theorem Ledger.cleared (l : s.Ledger) (none_ : ∀ h, s.holding h ≠ .run) : s.clearRun.Accounts where
  ledger := by
    have slots (h : HeadId) : s.clearRun.headSlot h = s.headSlot h := by
      rw [headSlot_eq, headSlot_eq, show s.clearRun.holding h = s.holding h from rfl]
      cases e : s.holding h with
      | run => exact absurd e (none_ h)
      | _ => rfl
    exact {
      running := fun x => absurd rfl x
      entries := l.entries
      heads := fun h =>
        ⟨(l.heads h).queued, (l.heads h).rested, fun x => absurd x (none_ h), fun x => absurd x (none_ h)⟩
      counted := fun i => by
        simp only [users, slots]
        exact l.counted i
      loaded := l.loaded }
  grouped h := ⟨fun x => absurd x (none_ h), fun x => absurd x (by simp [inGroup, clearRun])⟩
  idle _ := rfl

/-- What a run end makes of a site: the slot it holds is its own or the run's, and a site that took part or was to holds
one. -/
structure Retires (g : SiteContext → SiteContext) (s : State) : Prop where
  current : ∀ c e, (g c).entry = some e → c.entry = some e ∨ s.run.slot = some e.slot
  held : ∀ c, c.entry ≠ none ∨ s.run.state.active = false ∧ c.state = .ready → (g c).entry ≠ none

theorem Retires.of_run {g : SiteContext → SiteContext} (r : s.Retires g) (run : t.run.slot = s.run.slot ∧
    t.run.state = s.run.state) : t.Retires g :=
  ⟨fun c e x => run.1 ▸ r.current c e x, fun c x => r.held c (run.2 ▸ x)⟩

theorem endNormal_retires (active : s.run.state.active = true) : s.Retires SiteContext.endNormal := by
  have kept : ∀ c : SiteContext, c.endNormal.entry = c.entry := fun c => by
    unfold SiteContext.endNormal
    split <;> rfl
  exact ⟨fun c e x => .inl (kept c ▸ x),
    fun c x => kept c ▸ x.elim id fun y => absurd (y.1.symm.trans active) (by decide)⟩

theorem endAborted_retires (cause : AbortCause) {e : RunEntry} (slot : s.run.slot = some e.slot) :
    s.Retires (SiteContext.endAborted cause (some e)) := by
  refine ⟨fun c d x => ?_, fun c x => ?_⟩
  · unfold SiteContext.endAborted at x
    split at x
    · exact .inl x
    · split at x
      · obtain rfl := Option.some.inj x
        exact .inr slot
      · exact .inl x
  · unfold SiteContext.endAborted
    split
    · rename_i played
      refine x.elim id fun y => absurd played ?_
      simp [SiteContext.inPlay, y.2]
    · split
      · exact Option.some_ne_none e
      · rename_i away
        exact x.elim id fun y => absurd y.2 away

/-- A head of the run ends: its sites retire, and it goes to ANALYSIS with its use (R37, R100, R102, R109). -/
theorem Ledger.endHead {h : HeadId} {g : SiteContext → SiteContext} (l : s.Ledger) (inRun : s.holding h = .run)
    (r : s.Retires g) (o : Others h s t) (sites : ∀ i, t.site h i = g (s.site h i)) (ended : t.holding h = .sites)
    (queue : t.arbiter.queue = s.arbiter.queue) (store : t.store = s.store) : t.Ledger := by
  refine l.ends o inRun ended (siteSlot_of (fun i e x => ?_) ?_) queue store
  · rw [sites] at x
    exact (r.current _ e x).elim ((l.heads h).current inRun i e) id
  · obtain ⟨i, played⟩ := (l.heads h).staffed inRun
    exact ⟨i, sites i ▸ r.held _ played⟩

/-- The sites of a head end, and it goes to ANALYSIS. -/
def endSites (g : SiteContext → SiteContext) (h : HeadId) (s : State) : State :=
  (s.mapSites h fun _ c => g c).setHeadState h .analysis

theorem endSites_others (g : SiteContext → SiteContext) (h : HeadId) (s : State) : Others h s (endSites g h s) :=
  (mapSites_others h _ s).trans (onHead_others h _ _)

theorem setHeadState_holding (h : HeadId) (x : HeadState) (s : State) : (s.setHeadState h x).holding h = x.holding :=
  congrArg (fun c : HeadContext => c.state.holding) ((onHead_head h h _ s).trans (if_pos rfl))

/-- A head keeps what it uses a plan by while another changes. -/
theorem Others.holding {h k : HeadId} (o : Others h s t) (other : k ≠ h) : t.holding k = s.holding k :=
  (o.stays k other).holding

/-- In a loop over the group whose turns take the head out of the run, all heads leave the run and the account is
kept. -/
theorem Accounts.forHeads_ends {f : HeadId → State → State} (a : s.Accounts)
    (body : ∀ h (t : State), t.Ledger → t.run = s.run → t.holding h = s.holding h → t.holding h = .run →
      (f h t).Ledger ∧ (f h t).run = s.run ∧ (f h t).holding h ≠ .run)
    (others : ∀ h t, Others h t (f h t)) :
    (s.forHeads s.run.group f).Ledger ∧ (∀ h, (s.forHeads s.run.group f).holding h ≠ .run) := by
  obtain ⟨⟨ledger, _, left⟩, gone⟩ := forHeads_each
    (P := fun t => t.Ledger ∧ t.run = s.run ∧ ∀ k, t.holding k = .run → s.holding k = .run)
    (Q := fun h t => t.holding h = .run) (R := fun h t => t.holding h ≠ .run) (f := f) (set := s.run.group)
    (fun h t ⟨ledger, run, left⟩ inRun => by
      obtain ⟨after, ran, gone⟩ := body h t ledger run (inRun.trans (left h inRun).symm) inRun
      refine ⟨⟨after, ran, fun k x => left k ?_⟩, gone⟩
      exact ((others h t).holding (k := k) fun e => by subst e; exact gone x).symm.trans x)
    (fun h k t other x => ((others h t).holding other).trans x)
    (fun h k t other x y => x (((others h t).holding other).symm.trans y))
    ⟨a.ledger, rfl, fun _ x => x⟩ fun h mem => (a.grouped h).mpr mem
  exact ⟨ledger, fun h inRun => gone h ((a.grouped h).mp (left h inRun)) inRun⟩

theorem Ledger.endSites {g : SiteContext → SiteContext} {h : HeadId} (l : s.Ledger) (inRun : s.holding h = .run)
    (r : s.Retires g) : (endSites g h s).Ledger :=
  l.endHead inRun r (endSites_others g h s) (fun _ => (mapSites_site ..).trans (if_pos rfl))
    (setHeadState_holding ..) rfl rfl

/-- The group goes to ANALYSIS with its sites, and the run is over. -/
theorem Accounts.endsRun {g : SiteContext → SiteContext} (a : s.Accounts)
    (r : ∀ h, s.inGroup h = true → s.Retires g) (plan : Option Plan) (n : Notice) :
    ((((s.forHeads s.run.group (State.endSites g)).autoJobs plan s.run.group).runNotice n).clearRun).Accounts := by
  have ended : (s.forHeads s.run.group (State.endSites g)).Ledger ∧
      ∀ h, (s.forHeads s.run.group (State.endSites g)).holding h ≠ .run :=
    a.forHeads_ends (fun h t l run same inRun => by
      have retires := r h ((a.grouped h).mp (same ▸ inRun))
      refine ⟨l.endSites inRun (retires.of_run ⟨by rw [run], by rw [run]⟩), run, ?_⟩
      rw [State.endSites, setHeadState_holding]
      simp [HeadState.holding]) fun h t => endSites_others g h t
  have after : Quiet (s.forHeads s.run.group (State.endSites g)) _ :=
    ((autoJobs_same plan s.run.group _).quiet (by decide)).trans (runNotice_quiet _ n)
  exact (ended.1.quiet after).cleared fun h => after.holding h ▸ ended.2 h

/-- The normal end of a run under way (R100). -/
theorem Accounts.normalEnd (a : s.Accounts) (active : s.run.state.active = true) : s.normalEnd.Accounts :=
  a.endsRun (fun _ _ => endNormal_retires active) _ _

/-- The end of an aborted run (R102). -/
theorem Accounts.abortedEnd (a : s.Accounts) (running : s.run.state ≠ .none) : s.abortedEnd.Accounts := by
  refine a.endsRun (fun h member => ?_) _ _
  obtain ⟨e, entry, slot⟩ := a.ledger.runEntry running ((a.grouped h).mpr member)
  rw [entry]
  exact endAborted_retires _ slot

theorem dropUse_store (o : Option SlotId) {s t : State} (e : s.store = t.store) :
    (s.dropUse o).store = (t.dropUse o).store := by
  cases o with
  | none => exact e
  | some i => simp only [dropUse, onStore_store, e]

/-- A head of the group goes back to IDLE and its use of the slot ends (R96). -/
def declineHead (slot : Option SlotId) (h : HeadId) (s : State) : State :=
  (((s.sendHead h .runStop).setHeadState h .idle).raiseFlag h HeadFlag.runDeclined).dropUse slot

section
variable (slot : Option SlotId) (h : HeadId) (s : State)

theorem declineHead_others : Others h s (declineHead slot h s) :=
  ((((sendHead_same h _ s).others (by decide) h).trans (onHead_others h _ _)).trans (onHead_others h _ _)).trans
    ((dropUse_same _ _).others (by decide) h)

theorem declineHead_same : SameBut [.wire, .heads, .store] s (declineHead slot h s) :=
  (((sendHead_same h _ s).comp (setHeadState_same h _ _) (k := [.wire, .heads]) (by decide) (by decide)).comp
    (raiseFlag_same h _ _) (k := [.wire, .heads]) (by decide) (by decide)).comp (dropUse_same _ _) (by decide)
      (by decide)

theorem dropUse_holding (k : HeadId) : (s.dropUse slot).holding k = s.holding k := by
  cases slot <;> rfl

theorem declineHead_holding : (declineHead slot h s).holding h = .nothing :=
  (dropUse_holding slot _ h).trans (((raiseFlag_quiet h _ _).holding h).trans (setHeadState_holding ..))

theorem declineHead_store : (declineHead slot h s).store = (s.dropUse slot).store :=
  dropUse_store slot (sendHead_same h .runStop s .store (by decide))

end

/-- The run ends without starting: every head of the group goes back to IDLE and its use ends (R96). -/
theorem Accounts.endWithoutStart (a : s.Accounts) (w : StartFailure) : (s.endWithoutStart w).Accounts := by
  obtain ⟨ledger, none_⟩ := a.forHeads_ends (f := declineHead s.run.slot) (fun h t l run _ inRun => by
      have same := declineHead_same s.run.slot h t
      have freed := declineHead_holding s.run.slot h t
      refine ⟨l.leaves_unqueued (declineHead_others _ h t) (by simp [inRun]) freed
        (congrArg Arbiter.queue (same .arbiter (by decide))) ?_, (same .run (by decide)).trans run, by simp [freed]⟩
      rw [headSlot_of inRun, slotBy, run]
      exact declineHead_store ..) (declineHead_others s.run.slot)
  have after := onRun_quiet_same (f := fun r => { r with startFailure := some w })
    (s.forHeads s.run.group (declineHead s.run.slot)) rfl rfl rfl
  exact (ledger.quiet after).cleared fun h => after.holding h ▸ none_ h

/-! ## Drops -/

/-- The group without one head. -/
theorem getLsbD_without (g : HeadSet) (h k : HeadId) :
    (g &&& ~~~(1#4 <<< h.val)).getLsbD k.val = (g.getLsbD k.val && decide (k ≠ h)) := by
  have bit : (1#4 <<< h.val).getLsbD k.val = decide (k = h) := by
    rw [← BitVec.twoPow_eq, BitVec.getLsbD_twoPow]
    simp [Fin.ext_iff, eq_comm]
  rw [BitVec.getLsbD_and, BitVec.getLsbD_not, bit]
  simp

/-- A head of the group leaves the run for ANALYSIS with its use (R109, R56). -/
theorem Accounts.removeHead {h : HeadId} (a : s.Accounts) (member : s.inGroup h = true) (c : AbortCause) :
    (s.removeHead h c).Accounts ∧ (s.removeHead h c).holding h = .sites := by
  have inRun := (a.grouped h).mpr member
  have running : s.run.state ≠ .none := fun idle => by simp [inGroup, a.idle idle] at member
  obtain ⟨e, entry, slot⟩ := a.ledger.runEntry running inRun
  have others : Others h s (s.removeHead h c) :=
    (((((onRun_others h s rfl rfl).trans ((onGates_same _ _).others (by decide) h)).trans (mapSites_others h _ _)).trans
      ((sendHead_same h _ _).others (by decide) h)).trans (onHead_others h _ _)).trans (onHead_others h _ _)
  have ended : (s.removeHead h c).holding h = .sites :=
    ((raiseFlag_quiet h _ HeadFlag.dropped).holding h).trans (setHeadState_holding ..)
  have same := removeHead_same h c s
  have group : (s.removeHead h c).run.group = s.run.group &&& ~~~(1#4 <<< h.val) := by
    unfold State.removeHead
    exact congrArg RunController.group (sendHead_same h .runStop _ .run (by decide))
  have sites (i : SiteId) : (s.removeHead h c).site h i = (s.site h i).endAborted c (some e) := by
    have sent := sendHead_same h .runStop (((s.onRun fun r => { r with
      group := r.group &&& ~~~(1#4 <<< h.val), tallied := r.tallied &&& ~~~(1#4 <<< h.val) }).onGates fun g => { g with
        levels := g.levels.map (gateLevelWithout h), collected := upd g.collected h fun _ => none }).mapSites h
          fun _ x => x.endAborted c s.runEntry) .sites (by decide)
    refine (congrArg (fun v : Vector (Vector SiteContext 32) 4 => v[h][i]) sent).trans ?_
    refine ((mapSites_site ..).trans (if_pos rfl)).trans ?_
    rw [entry]
    rfl
  refine ⟨⟨a.ledger.endHead inRun (endAborted_retires c slot) others sites ended
    (congrArg Arbiter.queue (same .arbiter (by decide))) (same .store (by decide)), fun k => ?_, fun idle => ?_⟩, ended⟩
  · rw [inGroup, group, getLsbD_without]
    by_cases x : k = h
    · subst x
      simp [ended]
    · rw [others.holding x, a.grouped]
      simp [inGroup, x]
  · exact absurd (others.run.2 ▸ idle) running

/-- The effect of a drop on the run leaves the account, and brings no head into the run (R110, R126). -/
theorem Accounts.afterDrop (a : s.Accounts) : s.afterDrop.Accounts := by
  unfold State.afterDrop
  refine (a.quiet (abortRun_quiet _ s)).ite ?_
  split
  · rename_i state
    exact (a.quiet (a.makeDecision (by rw [state]; rfl))).ite a
  · rename_i state
    exact (a.normalEnd (by rw [state]; rfl)).ite a
  · exact a

theorem Accounts.dropHead (a : s.Accounts) (h : HeadId) (c : AbortCause) : (s.dropHead h c).Accounts := by
  unfold State.dropHead
  split
  · rename_i member
    exact (a.removeHead member c).1.afterDrop
  · exact a

/-! ## Run exceptions -/

theorem orderCaptureLost_quiet (h : HeadId) (i : SiteId) (n : Half) (s : State) :
    s.Quiet (s.onSite h i (SiteContext.orderCaptureLost n)) := by
  refine onSite_quiet h i ?_ fun x => ?_ <;> unfold SiteContext.orderCaptureLost <;> split
  · rfl
  · rfl
  · exact x
  · exact x

theorem Accounts.applyDefault (a : s.Accounts) (r : Raise) : (s.applyDefault r).Accounts := by
  have lost : (match r.head, r.site with
      | some h, some i => s.onSite h i (SiteContext.orderCaptureLost s.run.runNumber)
      | _, _ => s).Accounts := by
    split
    · exact a.quiet (orderCaptureLost_quiet _ _ _ s)
    · exact a
  unfold State.applyDefault
  split
  · exact a.quiet (onGates_quiet s _)
  · exact a.quiet (sendSource_quiet s _)
  · exact lost
  · exact lost
  · exact a
  · exact a
  · exact forHeads_keeps (P := State.Accounts) (fun h _ b => b.dropHead h .tally) _ a

/-- A hold of a run under way (R134, R135). -/
theorem holdRun_quiet (r : Raise) (active : s.run.state.active = true) : s.Quiet (s.holdRun r) := by
  have sent (c : Bool) : SameBut [.wire] s (if c then s.sendSource .pause else s) :=
    (sendSource_same _ s).ite (SameBut.refl _ s)
  unfold holdRun
  refine ((sent _).quiet (by decide)).trans ((onRun_quiet _ rfl rfl ?_ fun _ => ?_).trans (runNotice_quiet _ _)) <;>
    rw [show (if (s.run.state == .streaming && !s.run.paused) = true then s.sendSource .pause else s).run = s.run from
      sent _ .run (by decide)]
  · exact ⟨fun x => absurd x (by simp), fun x => absurd x (RunState.active_ne_none active)⟩
  · exact active

theorem Accounts.raiseException (a : s.Accounts) (r : Raise) : (s.raiseException r).Accounts := by
  have flagged : s.Quiet (s.onRun (RunController.setException r.cause.bit)) := onRun_quiet_same s rfl rfl rfl
  have held (active : s.run.state.active = true) : (if s.run.masked r.cause then
      (s.onRun (RunController.setException r.cause.bit)).applyDefault r
      else (s.onRun (RunController.setException r.cause.bit)).holdRun r).Accounts :=
    ((a.quiet flagged).applyDefault r).ite (a.quiet (flagged.trans (holdRun_quiet r active)))
  unfold State.raiseException
  cases state : s.run.state with
  | none => exact a
  | starting => exact a
  | held => exact (a.quiet (flagged.trans (onRun_quiet_same _ rfl rfl rfl))).applyDefault r
  | halting => exact (a.quiet flagged).applyDefault r
  | _ => exact held (by rw [state]; rfl)

theorem Accounts.takeEach (a : s.Accounts) (l : List HandedRaise) : (s.takeEach l).Accounts := by
  induction l generalizing s with
  | nil => exact a
  | cons r rest ih => exact ih (a.ite (a.raiseException r.raise))

theorem Accounts.takeRaises (a : s.Accounts) : s.takeRaises.Accounts := (a.quiet (onCapture_quiet s _)).takeEach _

theorem Accounts.takeOldestRaises (a : s.Accounts) : s.takeOldestRaises.Accounts := by
  unfold State.takeOldestRaises
  split
  · exact a
  · exact ((a.quiet (onCapture_quiet s _)).takeEach _).emitted

/-! ## The start -/

/-- A head of the run stays in it, its sites with the slot of the run. -/
theorem Ledger.stays {h : HeadId} (l : s.Ledger) (o : Others h s t) (inRun : s.holding h = .run)
    (still : t.holding h = .run) (current : ∀ i e, (t.site h i).entry = some e → s.run.slot = some e.slot)
    (staffed : t.Staffs h) (queue : t.arbiter.queue = s.arbiter.queue) (store : t.store = s.store) : t.Ledger := by
  have same : t.headSlot h = s.headSlot h := by rw [headSlot_of inRun, headSlot_of still]; exact o.run.1
  have queued := (l.heads h).queued
  rw [inRun] at queued
  refine l.change o ⟨by rw [still, queue]; exact queued, fun x => absurd (still.symm.trans x) (by simp),
    fun _ i e x => o.run.1.trans (current i e x), fun _ => staffed⟩ (queue ▸ l.entries) ?_ (fun i => ?_) fun i x => ?_
  · exact funext fun i => congrArg (fun p : PlanStore => p.slots[i].record) store
  · rw [same, show t.useCount i = s.useCount i from congrArg (fun p : PlanStore => p.slots[i].useCount) store]
  · exact (l.used (same.symm.trans x)).2

/-- What the ACCEPT makes of a site: a READY one enters the run (R48). -/
theorem startRun_entry (e : RunEntry) (c : SiteContext) :
    (c.startRun e).entry = if c.state = .ready then some e else c.entry := by
  unfold SiteContext.startRun
  split <;> rfl

/-- A head of the run starts: its READY sites enter the run. -/
theorem Ledger.startHead {h : HeadId} {e : RunEntry} (l : s.Ledger) (inRun : s.holding h = .run)
    (slot : s.run.slot = some e.slot) :
    (s.mapSites h fun _ c => c.startRun e).Ledger ∧
      ∃ i, ((s.mapSites h fun _ c => c.startRun e).site h i).entry ≠ none := by
  have sites (i : SiteId) : ((s.mapSites h fun _ c => c.startRun e).site h i).entry =
      if (s.site h i).state = .ready then some e else (s.site h i).entry := by
    rw [mapSites_site, if_pos rfl, startRun_entry]
  have staffed : ∃ i, ((s.mapSites h fun _ c => c.startRun e).site h i).entry ≠ none := by
    obtain ⟨i, played⟩ := (l.heads h).staffed inRun
    refine ⟨i, ?_⟩
    rw [sites]
    split
    · simp
    · rename_i away
      exact played.elim id fun x => absurd x.2 away
  obtain ⟨i, held⟩ := staffed
  refine ⟨l.stays (mapSites_others h _ s) inRun inRun (fun j d x => ?_) ⟨i, .inl held⟩ rfl rfl, i, held⟩
  rw [sites] at x
  split at x
  · obtain rfl := Option.some.inj x
    exact slot
  · exact (l.heads h).current inRun j d x

/-- The run is under way, when every head in it has a site that has entered it. -/
theorem Accounts.underWay {f : RunController → RunController} (a : s.Accounts) (slot : (f s.run).slot = s.run.slot)
    (group : (f s.run).group = s.run.group) (running : s.run.state ≠ .none) (state : (f s.run).state ≠ .none)
    (entered : ∀ h, s.holding h = .run → ∃ i, (s.site h i).entry ≠ none) : (s.onRun f).Accounts where
  ledger := {
    running := fun _ => by rw [onRun_run, slot]; exact a.ledger.running running
    entries := a.ledger.entries
    heads := fun h => ⟨(a.ledger.heads h).queued, (a.ledger.heads h).rested,
      fun x i e y => slot.trans ((a.ledger.heads h).current x i e y), fun x => by
        obtain ⟨i, held⟩ := entered h x
        exact ⟨i, .inl held⟩⟩
    counted := fun i => by
      have slots (h : HeadId) : (s.onRun f).headSlot h = s.headSlot h :=
        Stays.headSlot (.of_eq rfl fun _ => rfl) slot a.ledger.entries a.ledger.entries fun _ _ => .rfl
      simp only [users, slots]
      exact a.ledger.counted i
    loaded := a.ledger.loaded }
  grouped h := by rw [inGroup, onRun_run, group]; exact a.grouped h
  idle x := absurd x state

/-- The READY sites of a head enter the run, when it has a plan (R48). -/
def startSites (e : Option RunEntry) (h : HeadId) (s : State) : State :=
  s.mapSites h fun _ c =>
    match e with
    | some e => c.startRun e
    | none => c

/-- The ACCEPT of a run (R95, R48). -/
theorem Accounts.startRun (a : s.Accounts) (starting : s.run.state = .starting) : s.startRun.Accounts := by
  have running : s.run.state ≠ .none := by simp [starting]
  obtain ⟨⟨ledger, run, same⟩, entered⟩ := forHeads_each
    (P := fun t => t.Ledger ∧ t.run = s.run ∧ ∀ k, t.holding k = s.holding k) (Q := fun h _ => s.inGroup h = true)
    (R := fun h t => ∃ i, (t.site h i).entry ≠ none) (set := s.run.group) (f := startSites s.runEntry)
    (fun h t ⟨ledger, run, same⟩ member => by
      have inRun := (a.grouped h).mpr member
      obtain ⟨e, entry, slot⟩ := a.ledger.runEntry running inRun
      rw [entry]
      obtain ⟨after, held⟩ := ledger.startHead ((same h).trans inRun) (run ▸ slot)
      exact ⟨⟨after, run, same⟩, held⟩)
    (fun _ _ _ _ member => member)
    (fun h k t other ⟨i, held⟩ => ⟨i, fun x => held (((mapSites_others h _ t).stays k other).entry_none i |>.mp x)⟩)
    ⟨a.ledger, rfl, fun _ => rfl⟩ fun _ member => member
  have sites : (s.forHeads s.run.group (startSites s.runEntry)).Accounts :=
    ⟨ledger, fun h => by rw [same h, a.grouped, inGroup, inGroup, run], fun x => by
      rw [run] at x ⊢
      exact a.idle x⟩
  have begun : ((s.forHeads s.run.group (startSites s.runEntry)).onRun fun r =>
      { r with timer := none, state := .streaming }).Accounts :=
    sites.underWay rfl rfl (by rw [run]; exact running) (by simp) fun h x =>
      entered h ((a.grouped h).mp ((same h).symm.trans x))
  unfold State.startRun
  simp only
  split
  · exact begun.quiet (runNotice_quiet _ _)
  · exact begun

end
end Sys2Proof.Machine.State
end

section
/-!
The account of plan uses at a grant: the entries of the group leave the queue, and their heads use the same slot by the
run (R88 to R90).
-/

namespace Sys2Proof.Machine.State

/-- A head of the group enters the run and is told so (R90). -/
def grantHead (number : Half) (h : HeadId) (s : State) : State :=
  (s.setHeadState h .inRun).sendHead h (.runBegin number (s.head h).enableSet)

theorem grantHead_same (number : Half) (h : HeadId) (s : State) : SameBut [.heads, .wire] s (grantHead number h s) :=
  (setHeadState_same h _ s).comp (sendHead_same h _ _) (by decide) (by decide)

theorem grantHead_head (number : Half) (h k : HeadId) (s : State) :
    (grantHead number h s).head k = if k = h then { s.head h with state := .inRun } else s.head k :=
  (congrArg (fun v : Vector HeadContext 4 => v[k]) (sendHead_same h _ _ .heads (by decide))).trans (onHead_head ..)

/-- The winner is one of the entries it is chosen from (R89). -/
theorem winnerOf_mem {w : QueueEntry} {l : List QueueEntry} (h : winnerOf l = some w) : w ∈ l := by
  induction l with
  | nil => exact absurd h (by simp [winnerOf])
  | cons e rest ih =>
    rw [winnerOf] at h
    cases later : winnerOf rest with
    | none => simp_all
    | some v =>
      simp only [later] at h
      split at h
      · exact List.mem_cons_of_mem _ (ih (later.trans h))
      · simp_all

/-- A group whose heads enter the run. -/
theorem forHeads_grantHead (number : Half) (group : HeadSet) (s : State) :
    SameBut [.heads, .wire] s (s.forHeads group (grantHead number)) ∧
      (∀ h, ((s.forHeads group (grantHead number)).head h).enableSet = (s.head h).enableSet) ∧
      (∀ h, group.getLsbD h.val = true → (s.forHeads group (grantHead number)).holding h = .run) ∧
      ∀ h, group.getLsbD h.val = false → (s.forHeads group (grantHead number)).holding h = s.holding h := by
  obtain ⟨⟨same, kept⟩, entered⟩ := forHeads_each (s := s) (set := group) (f := grantHead number)
    (P := fun t => SameBut [.heads, .wire] s t ∧ ∀ k, (t.head k).enableSet = (s.head k).enableSet ∧
      (group.getLsbD k.val = false → t.holding k = s.holding k))
    (Q := fun h _ => group.getLsbD h.val = true) (R := fun h t => t.holding h = .run)
    (fun h t ⟨same, kept⟩ member => by
      refine ⟨⟨same.trans (grantHead_same number h t), fun k => ?_⟩, ?_⟩
      · rw [holding, grantHead_head]
        by_cases e : k = h
        · subst e
          rw [if_pos rfl]
          exact ⟨(kept k).1, fun out => absurd (member.symm.trans out) (by decide)⟩
        · rw [if_neg e]
          exact kept k
      · rw [holding, grantHead_head, if_pos rfl]
        rfl)
    (fun _ _ _ _ member => member)
    (fun h k t other x => by rw [holding, grantHead_head, if_neg other]; exact x)
    ⟨SameBut.refl _ s, fun _ => ⟨rfl, fun _ => rfl⟩⟩ fun _ member => member
  exact ⟨same, fun h => (kept h).1, entered, fun h => (kept h).2⟩

/-- What a grant changes of the use of plans: the entries that join leave the queue, and their heads are in the run. -/
structure Granted (w : QueueEntry) (p : Plan) (s t : State) : Prop where
  store : t.store = s.store
  sites : t.sites = s.sites
  queue : t.arbiter.queue = s.arbiter.queue.filter fun e => !s.joins w p e
  slot : t.run.slot = some w.slot
  starting : t.run.state = .starting
  group : t.run.group = s.groupOf w p
  enables : ∀ h, (t.head h).enableSet = (s.head h).enableSet
  entered : ∀ h, (s.groupOf w p).getLsbD h.val = true → t.holding h = .run
  others : ∀ h, (s.groupOf w p).getLsbD h.val = false → t.holding h = s.holding h

/-- A grant, from the state in which the run is STARTING and the entries have left, before its heads enter the run. -/
theorem Granted.of_start {w : QueueEntry} {p : Plan} {number : Half} {s u : State} (store : u.store = s.store)
    (sites : u.sites = s.sites) (heads : u.heads = s.heads)
    (queue : u.arbiter.queue = s.arbiter.queue.filter fun e => !s.joins w p e) (slot : u.run.slot = some w.slot)
    (starting : u.run.state = .starting) (group : u.run.group = s.groupOf w p) :
    s.Granted w p (u.forHeads (s.groupOf w p) (grantHead number)) := by
  obtain ⟨same, enables, entered, others⟩ := forHeads_grantHead number (s.groupOf w p) u
  have run : (u.forHeads (s.groupOf w p) (grantHead number)).run = u.run := same .run (by decide)
  have head (h : HeadId) : u.head h = s.head h := congrArg (fun v : Vector HeadContext 4 => v[h]) heads
  refine ⟨(same .store (by decide)).trans store, (same .sites (by decide)).trans sites,
    (congrArg Arbiter.queue (same .arbiter (by decide))).trans queue, run ▸ slot, run ▸ starting, run ▸ group,
    fun h => ?_, entered, fun h out => ?_⟩
  · rw [enables, head]
  · rw [others h out, holding, holding, head]

theorem grantTo_granted (w : QueueEntry) (p : Plan) (s : State) : s.Granted w p (s.grantTo w p) := by
  unfold grantTo
  exact .of_start rfl rfl rfl rfl rfl rfl rfl

section
variable {s t : State} {w : QueueEntry} {p : Plan}

theorem groupOf_iff {h : HeadId} :
    (s.groupOf w p).getLsbD h.val = true ↔ ∃ e ∈ s.arbiter.queue, e.head = h ∧ s.joins w p e = true := by
  rw [groupOf, getLsbD_setOfFin]
  simp

/-- An entry that joins an eligible winner is eligible, with the winner's slot (R89). -/
theorem joins_eligible (winner : s.eligible w = true) {e : QueueEntry} (joins : s.joins w p e = true) :
    s.eligible e = true ∧ e.slot = w.slot := by
  simp only [State.joins, Bool.or_eq_true, beq_iff_eq, Bool.and_eq_true] at joins
  rcases joins with rfl | ⟨⟨eligible, slot⟩, _⟩
  · exact ⟨winner, rfl⟩
  · exact ⟨eligible, slot⟩

/-- An eligible head enables a site (R87). -/
theorem eligible_enables {e : QueueEntry} (eligible : s.eligible e = true) :
    ∃ i : SiteId, (s.head e.head).enableSet.getLsbD i.val = true := by
  simp only [State.eligible, Bool.and_eq_true, bne_iff_ne] at eligible
  exact exists_site eligible.2

section
variable (a : s.Accounts) (g : s.Granted w p t) (idle : s.run.state = .none) (winner : s.eligible w = true)
include a

/-- Without a run no head is in it. -/
theorem Accounts.none_inRun (idle : s.run.state = .none) (h : HeadId) : s.holding h ≠ .run := fun inRun => by
  have member := (a.grouped h).mp inRun
  simp [inGroup, a.idle idle] at member

include g

/-- A head of the granted group was queued with an entry that joins, its only one. -/
theorem Granted.joined {h : HeadId} (member : (s.groupOf w p).getLsbD h.val = true) :
    s.holding h = .entry ∧ ∃ e ∈ s.arbiter.queue, e.head = h ∧ s.joins w p e = true ∧
      ∀ d ∈ t.arbiter.queue, d.head ≠ h := by
  obtain ⟨e, mem, rfl, joins⟩ := groupOf_iff.mp member
  refine ⟨(a.ledger.heads _).queued.mpr ⟨e, mem, rfl⟩, e, mem, rfl, joins, fun d kept own => ?_⟩
  rw [g.queue] at kept
  obtain ⟨there, stays⟩ := List.mem_filter.mp kept
  obtain rfl := List.inj_on_of_nodup_map a.ledger.entries there mem own
  simp [joins] at stays

omit a in
/-- A head outside the granted group keeps its entry. -/
theorem Granted.kept {h : HeadId} (out : (s.groupOf w p).getLsbD h.val = false) (e : QueueEntry) (own : e.head = h) :
    e ∈ t.arbiter.queue ↔ e ∈ s.arbiter.queue := by
  rw [g.queue, List.mem_filter]
  refine ⟨And.left, fun mem => ⟨mem, ?_⟩⟩
  cases joins : s.joins w p e with
  | false => rfl
  | true => exact absurd ((groupOf_iff.mpr ⟨e, mem, own, joins⟩).symm.trans out) (by decide)

omit a in
theorem Granted.site (h : HeadId) (i : SiteId) : t.site h i = s.site h i :=
  congrArg (fun v : Vector (Vector SiteContext 32) 4 => v[h][i]) g.sites

include winner

theorem Granted.inOrder (idle : s.run.state = .none) (h : HeadId) : t.InOrder h := by
  cases member : (s.groupOf w p).getLsbD h.val with
  | true =>
    obtain ⟨queued, e, _, rfl, joins, gone⟩ := g.joined a member
    have inRun := g.entered _ member
    have rests := (a.ledger.heads _).rested queued
    refine ⟨⟨fun x => absurd (inRun.symm.trans x) (by simp), fun ⟨d, mem, own⟩ => absurd own (gone d mem)⟩,
      fun x => absurd (inRun.symm.trans x) (by simp), fun _ i d x => ?_, fun _ => ?_⟩
    · rw [g.site, (rests i).1] at x
      exact absurd x (by simp)
    · obtain ⟨i, on⟩ := eligible_enables (joins_eligible winner joins).1
      refine ⟨i, .inr ⟨by rw [g.starting]; rfl, ?_⟩⟩
      rw [g.site]
      exact (rests i).2 on
  | false =>
    have same := g.others h member
    have away : t.holding h ≠ .run := same ▸ a.none_inRun idle h
    refine ⟨?_, fun queued i => ?_, fun x => absurd x away, fun x => absurd x away⟩
    · rw [same, (a.ledger.heads h).queued]
      exact exists_congr fun e => and_congr_left fun own => (g.kept member e own).symm
    · rw [g.site, g.enables]
      exact (a.ledger.heads h).rested (same ▸ queued) i

theorem Granted.headSlot (idle : s.run.state = .none) (h : HeadId) : t.headSlot h = s.headSlot h := by
  have entries : (t.arbiter.queue.map QueueEntry.head).Nodup := by
    rw [g.queue]
    exact a.ledger.entries.sublist (List.filter_sublist.map _)
  cases member : (s.groupOf w p).getLsbD h.val with
  | true =>
    obtain ⟨queued, e, mem, own, joins, _⟩ := g.joined a member
    rw [headSlot_of (g.entered h member), headSlot_of queued, (slotBy_entry a.ledger.entries h w.slot).mpr
      ⟨e, mem, own, (joins_eligible winner joins).2⟩]
    exact g.slot
  | false =>
    rw [headSlot_eq, headSlot_eq, g.others h member]
    cases place : s.holding h with
    | nothing => rfl
    | entry =>
      refine Option.ext fun i => ?_
      rw [slotBy_entry entries, slotBy_entry a.ledger.entries]
      exact exists_congr fun e => and_congr_left fun own => g.kept member e own.1
    | run => exact absurd place (a.none_inRun idle h)
    | sites => exact siteSlot_congr fun i => by rw [g.site]

/-- A grant keeps the account: each head of the group uses by the run the slot that it used by its entry. -/
theorem Accounts.granted (idle : s.run.state = .none) : t.Accounts where
  ledger := {
    running := fun _ => by rw [g.slot]; exact Option.some_ne_none _
    entries := by
      rw [g.queue]
      exact a.ledger.entries.sublist (List.filter_sublist.map _)
    heads := g.inOrder a winner idle
    counted := fun i => by
      have count : t.useCount i = s.useCount i := congrArg (fun x : PlanStore => x.slots[i].useCount) g.store
      simp only [users, g.headSlot a winner idle, count]
      exact a.ledger.counted i
    loaded := fun i => by
      have count : t.useCount i = s.useCount i := congrArg (fun x : PlanStore => x.slots[i].useCount) g.store
      have plan : t.planAt i = s.planAt i := congrArg (fun x : PlanStore => x.slots[i].record) g.store
      rw [count, plan]
      exact a.ledger.loaded i }
  grouped h := by
    rw [inGroup, g.group]
    cases member : (s.groupOf w p).getLsbD h.val with
    | true => exact ⟨fun _ => rfl, fun _ => g.entered h member⟩
    | false => exact ⟨fun x => absurd ((g.others h member).symm.trans x) (a.none_inRun idle h), fun x => by simp at x⟩
  idle x := absurd (g.starting.symm.trans x) (by simp)

end

theorem Accounts.grantCheck (a : s.Accounts) : s.grantCheck.Accounts := by
  unfold State.grantCheck
  split
  · rename_i conditions
    split
    · exact a
    · rename_i w winner
      have eligible := (List.mem_filter.mp (winnerOf_mem winner)).2
      split
      · rename_i p _
        exact a.granted (grantTo_granted w p s) eligible conditions.2.1
      · exact a
  · exact a

/-- The end of a step that may complete the conditions of a grant (R88). -/
theorem Accounts.settled (a : s.Accounts) : s.settle.Accounts :=
  (((a.quiet (flushEvents_quiet s)).grantCheck).quiet (startEngine_quiet _)).emitted

end
end Sys2Proof.Machine.State
end

section
/-!
The account of plan uses at the heads: joining and leaving the Run Request Queue, services, the START line, the link and
HEAD_RESET (R47, R84 to R86, R143 to R147, R149 to R156, R160).
-/

namespace Sys2Proof.Machine.State

/-! ## Quiet changes of a head -/

section
variable (h : HeadId) (s : State)

theorem setSupply_quiet (x : SupplyState) : s.Quiet (s.setSupply h x) := onHead_quiet h s (.inl ⟨rfl, rfl⟩)
theorem clearSlot_quiet : s.Quiet (s.clearSlot h) := onHead_quiet h s (.inl ⟨rfl, rfl⟩)

theorem setLink_quiet (x : LinkState) : s.Quiet (s.setLink h x) :=
  (onHead_quiet h s (.inl ⟨rfl, rfl⟩)).trans (raiseFlag_quiet h _ _)

theorem pauseFilter_quiet : s.Quiet (s.pauseFilter h) := by
  refine onHead_quiet h s (.inl ?_)
  split <;> exact ⟨rfl, rfl⟩

theorem resumeFilter_quiet : s.Quiet (s.resumeFilter h) := by
  refine onHead_quiet h s (.inl ?_)
  split <;> exact ⟨rfl, rfl⟩

theorem issueService_quiet (op : ServiceOp) (o : ServiceOrigin) : s.Quiet (s.issueService h op o) :=
  (onHead_quiet h s (.inl ⟨rfl, rfl⟩)).trans (sendHead_quiet h _ _)

theorem startSupply_quiet (on : Bool) (o : ServiceOrigin) : s.Quiet (s.startSupply h on o) :=
  (issueService_quiet h s _ o).trans (setSupply_quiet h _ _)

theorem answerCancelled_quiet (v : Option Service) (st : Status) : s.Quiet (s.answerCancelled h v st) :=
  (answerCancelled_same h v st s).quiet (by decide)

end

theorem setHeadState_enables (h : HeadId) (x : HeadState) (s : State) :
    ((s.setHeadState h x).head h).enableSet = (s.head h).enableSet := by
  rw [setHeadState, onHead_head, if_pos rfl]

theorem setHeadState_wake (h : HeadId) (x : HeadState) (s : State) :
    ((s.setHeadState h x).head h).pendingWake = (s.head h).pendingWake := by
  rw [setHeadState, onHead_head, if_pos rfl]

section
variable {s t : State} {h : HeadId}

theorem setHeadState_quiet {x : HeadState} (free : s.holding h = .nothing) (freed : x.holding = .nothing) :
    s.Quiet (s.setHeadState h x) := onHead_quiet h s (.inr ⟨free, freed⟩)

theorem startWake_quiet (o : ServiceOrigin) (m : Bool) (free : s.holding h = .nothing) :
    s.Quiet (s.startWake h o m) := by
  have issued := issueService_quiet h s (.headWake m) o
  exact (issued.trans (setHeadState_quiet ((issued.holding h).trans free) rfl)).trans (resumeFilter_quiet h _)

/-- The sites of a head that uses no plan change as they may. -/
theorem mapSites_quiet_of_free (f : SiteId → SiteContext → SiteContext) (free : s.holding h = .nothing) :
    s.Quiet (s.mapSites h f) := by
  refine .of_heads rfl rfl rfl fun k => ?_
  by_cases e : k = h
  · exact .inr ⟨e ▸ free, e ▸ free⟩
  · exact .inl ((mapSites_others h f s).stays k e)

/-- SITE_ENABLE of a head that uses no plan (R47). -/
theorem enableSites_quiet (set : SiteSet) (free : s.holding h = .nothing) : s.Quiet (s.enableSites h set) := by
  have set_ : s.Quiet (s.onHead h fun c => { c with enableSet := set }) := onHead_quiet h s (.inr ⟨free, free⟩)
  exact set_.trans (mapSites_quiet_of_free _ ((set_.holding h).trans free))

theorem Rests.onHead {f : HeadContext → HeadContext} (r : s.Rests h)
    (enables : (f (s.head h)).enableSet = (s.head h).enableSet) : (s.onHead h f).Rests h := fun i => by
  rw [onHead_head, if_pos rfl, enables]
  exact r i

end

/-! ## The Run Request Queue -/

section
variable {s t : State} {h : HeadId}

/-- One head changes and is not in the run, neither before nor after. -/
theorem Accounts.changed (a : s.Accounts) (l : t.Ledger) (o : Others h s t) (group : t.run.group = s.run.group)
    (before : s.holding h ≠ .run) (after : t.holding h ≠ .run) : t.Accounts where
  ledger := l
  grouped k := by
    rw [inGroup, group]
    by_cases e : k = h
    · subst e
      exact ⟨fun x => absurd x after, fun x => absurd ((a.grouped k).mpr x) before⟩
    · rw [o.holding e]
      exact a.grouped k
  idle x := group.trans (a.idle (o.run.2 ▸ x))

/-- An entry comes at the back of the queue, its head is QUEUED and uses the slot (R84, R36). -/
def enqueue (e : QueueEntry) (s : State) : State :=
  ((s.onArbiter fun a => { a with queue := a.queue ++ [e] }).setHeadState e.head .queued).useSlot e.slot

theorem enqueue_others (e : QueueEntry) (s : State) : Others e.head s (s.enqueue e) := by
  refine ((onArbiter_others _ s fun d other => ?_).trans (onHead_others _ _ _)).trans
    ((useSlot_same e.slot _).others (by decide) _)
  simp only [List.mem_append, List.mem_singleton, or_iff_left_iff_imp]
  exact fun x => absurd (congrArg QueueEntry.head x) other

theorem enqueue_holding (e : QueueEntry) (s : State) : (s.enqueue e).holding e.head = .entry :=
  setHeadState_holding e.head .queued (s.onArbiter fun a => { a with queue := a.queue ++ [e] })

theorem enqueue_enables (e : QueueEntry) (s : State) :
    ((s.enqueue e).head e.head).enableSet = (s.head e.head).enableSet :=
  setHeadState_enables e.head .queued (s.onArbiter fun a => { a with queue := a.queue ++ [e] })

/-- An entry with a LOADED slot, of a head that used no plan (R84, R36). -/
theorem Accounts.enqueued (a : s.Accounts) {e : QueueEntry} (free : s.holding e.head = .nothing)
    (rests : s.Rests e.head) (loaded : s.planAt e.slot ≠ none) : (s.enqueue e).Accounts := by
  have queued := enqueue_holding e s
  have gone := a.ledger.no_entry (h := e.head) (by simp [free])
  have entries : ((s.enqueue e).arbiter.queue.map QueueEntry.head).Nodup := by
    show ((s.arbiter.queue ++ [e]).map QueueEntry.head).Nodup
    rw [List.map_append, List.nodup_append]
    refine ⟨a.ledger.entries, List.nodup_singleton _, fun k mem j last => ?_⟩
    obtain ⟨d, there, rfl⟩ := List.mem_map.mp mem
    obtain rfl : j = e.head := by simpa using last
    exact gone d there
  have slot : (s.enqueue e).headSlot e.head = some e.slot := by
    rw [headSlot_of queued, slotBy_entry entries]
    exact ⟨e, List.mem_append_right _ (List.mem_singleton_self e), rfl, rfl⟩
  refine a.changed ?_ (enqueue_others e s) rfl (by simp [free]) (by simp [queued])
  refine a.ledger.change (enqueue_others e s) ⟨?_, fun _ i => ?_, fun x => ?_, fun x => ?_⟩ entries ?_ (fun i => ?_)
    fun i x => ?_
  · exact ⟨fun _ => ⟨e, List.mem_append_right _ (List.mem_singleton_self e), rfl⟩, fun _ => queued⟩
  · rw [enqueue_enables]
    exact rests i
  · exact absurd (queued.symm.trans x) (by simp)
  · exact absurd (queued.symm.trans x) (by simp)
  · exact (useSlot_advances e.slot _).plans
  · rw [slot, headSlot_of free]
    exact useSlot_useCount e.slot
      ((s.onArbiter fun a => { a with queue := a.queue ++ [e] }).setHeadState e.head .queued) i
  · obtain rfl := Option.some.inj (slot.symm.trans x)
    exact loaded

/-- A head that uses no plan joins the queue when the slot is LOADED (R84, R85). -/
theorem Accounts.join (a : s.Accounts) (free : s.holding h = .nothing) (rests : s.Rests h) (slot : SlotId) :
    (s.join h slot).Accounts := by
  unfold State.join
  split
  · exact a
  · rename_i p plan
    exact a.enqueued (e := ⟨h, slot, p.planClass, s.store.classMap[p.planClass]⟩) free rests (by simp [plan])

theorem Accounts.joinDefault (a : s.Accounts) (free : s.holding h = .nothing) (rests : s.Rests h) :
    (s.joinDefault h).Accounts := by
  unfold State.joinDefault
  split
  · exact a
  · exact a.join free rests _

theorem unqueue_others (h : HeadId) (s : State) : Others h s (s.unqueue h) :=
  onArbiter_others h s fun e other => by simp [List.mem_filter, other]

/-- A QUEUED head leaves the queue without a grant (R86, R37). -/
theorem Accounts.withdraw (a : s.Accounts) (queued : s.holding h = .entry) {x : HeadState}
    (free : x.holding = .nothing) : (s.withdraw h x).Accounts := by
  have freed : (s.withdraw h x).holding h = .nothing :=
    (dropUse_holding _ _ h).trans ((setHeadState_holding ..).trans free)
  have others : Others h s (s.withdraw h x) :=
    ((unqueue_others h s).trans (onHead_others h _ _)).trans ((dropUse_same _ _).others (by decide) h)
  have same := dropUse_same (s.headSlot h) ((s.unqueue h).setHeadState h x)
  refine a.changed (a.ledger.leaves others freed ?_ (dropUse_store _ rfl)) others ?_ (by simp [queued])
    (by simp [freed])
  · exact congrArg Arbiter.queue (same .arbiter (by decide))
  · exact congrArg RunController.group (same .run (by decide))

end

/-! ## Services -/

/-- A quiet step of a head that leaves its pending wake (R149). -/
structure Serves (h : HeadId) (s t : State) : Prop where
  quiet : s.Quiet t
  wake : (t.head h).pendingWake = (s.head h).pendingWake

section
variable {s t u : State} {h : HeadId}

theorem Serves.trans (a : Serves h s t) (b : Serves h t u) : Serves h s u :=
  ⟨a.quiet.trans b.quiet, b.wake.trans a.wake⟩

theorem onHead_serves {f : HeadContext → HeadContext} (q : s.Quiet (s.onHead h f))
    (wake : (f (s.head h)).pendingWake = (s.head h).pendingWake) : Serves h s (s.onHead h f) :=
  ⟨q, by rw [onHead_head, if_pos rfl, wake]⟩

theorem SameBut.serves {m : List Block} (a : SameBut m s t)
    (free : ∀ b ∈ [Block.store, .heads, .arbiter, .run, .sites], b ∉ m) : Serves h s t :=
  ⟨a.quiet free, congrArg (fun v : Vector HeadContext 4 => v[h].pendingWake) (a .heads (free _ (by decide)))⟩

theorem answerService_serves (v : Service) (st : Status) (f : List Byte) (s : State) :
    Serves h s (s.answerService v st f) := (answerService_same v st f s).serves (by decide)

theorem setSupply_serves (x : SupplyState) (s : State) : Serves h s (s.setSupply h x) :=
  onHead_serves (setSupply_quiet h s x) rfl

theorem raiseFlag_serves (x : BitVec 10) (s : State) : Serves h s (s.raiseFlag h x) :=
  onHead_serves (raiseFlag_quiet h s x) rfl

theorem endSupplyOn_serves (v : Service) (e : ServiceEnd) (s : State) : Serves h s (s.endSupplyOn h v e) := by
  unfold endSupplyOn
  split
  · exact (setSupply_serves _ s).trans (answerService_serves _ _ _ _)
  · exact ((setSupply_serves _ s).trans (raiseFlag_serves _ _)).trans (answerService_serves _ _ _ _)
  · exact (setSupply_serves _ s).trans (answerService_serves _ _ _ _)
  · exact (setSupply_serves _ s).trans (answerService_serves _ _ _ _)

theorem endSupplyOff_serves (v : Service) (e : ServiceEnd) (s : State) : Serves h s (s.endSupplyOff h v e) := by
  unfold endSupplyOff
  split <;> exact (setSupply_serves _ s).trans (answerService_serves _ _ _ _)

theorem endAccess_serves (v : Service) (e : ServiceEnd) (r : Bool) (s : State) : Serves h s (s.endAccess v e r) :=
  (endAccess_same v e r s).serves (by decide)

/-- A head goes to STANDBY from a state without a plan, and its filter stops (R153, R154, R155). -/
theorem setStandby_serves (free : s.holding h = .nothing) : Serves h s ((s.setHeadState h .standby).pauseFilter h) := by
  have standby : Serves h s (s.setHeadState h .standby) :=
    ⟨setHeadState_quiet free rfl, setHeadState_wake ..⟩
  refine standby.trans (onHead_serves (pauseFilter_quiet h _) ?_)
  split <;> rfl

theorem endSleep_serves (v : Service) (e : ServiceEnd) (s : State) : Serves h s (s.endSleep h v e) := by
  have good : Serves h s (s.endSleepGood h v) := by
    unfold endSleepGood
    split
    · exact ((onHead_serves (onHead_quiet h s (.inl ⟨rfl, rfl⟩)) rfl).trans
        ((sendHead_same h _ _).serves (by decide))).trans (answerService_serves _ _ _ _)
    · rename_i idle
      exact (setStandby_serves (holding_of idle)).trans (answerService_serves _ _ _ _)
    · exact answerService_serves _ _ _ s
  unfold endSleep
  split
  · exact answerService_serves _ _ _ s
  · exact answerService_serves _ _ _ s
  · exact good

theorem endWakeBad_serves (v : Service) (s : State) : Serves h s (s.endWakeBad h v) := by
  unfold endWakeBad
  refine Serves.trans (.trans ?_ (raiseFlag_serves _ _)) (answerService_serves _ _ _ _)
  split
  · rename_i waking
    exact setStandby_serves (holding_of waking)
  · exact ⟨.refl s, rfl⟩

/-- A wake that ends leaves the account, and no pending wake but in a head that uses no plan (R154). -/
structure Woken (h : HeadId) (s : State) : Prop where
  accounts : s.Accounts
  free : (s.head h).pendingWake ≠ none → s.holding h = .nothing

theorem Woken.serves (w : Woken h s) (q : Serves h s t) : Woken h t :=
  ⟨w.accounts.quiet q.quiet, fun x => (q.quiet.holding h).trans (w.free (q.wake ▸ x))⟩

theorem join_pendingWake (h : HeadId) (i : SlotId) (s : State) :
    ((s.join h i).head h).pendingWake = (s.head h).pendingWake := by
  unfold join
  split
  · rfl
  · exact setHeadState_wake h .queued s

theorem joinDefault_pendingWake (h : HeadId) (s : State) :
    ((s.joinDefault h).head h).pendingWake = (s.head h).pendingWake := by
  unfold joinDefault
  split
  · rfl
  · exact join_pendingWake h _ s

/-- What the pending wake of a head and its rest say before a step (R47, R154). -/
structure Poised (h : HeadId) (s : State) : Prop where
  rests : s.holding h = .nothing → s.Rests h
  waits : (s.head h).pendingWake ≠ none → (s.head h).state = .standby

theorem Poised.onHead (p : Poised h s) {f : HeadContext → HeadContext} (state : (f (s.head h)).state = (s.head h).state)
    (enables : (f (s.head h)).enableSet = (s.head h).enableSet)
    (wake : (f (s.head h)).pendingWake = (s.head h).pendingWake) : Poised h (s.onHead h f) := by
  have own : (s.onHead h f).head h = f (s.head h) := (onHead_head ..).trans (if_pos rfl)
  refine ⟨fun x => ?_, fun x => ?_⟩
  · rw [holding, own, state] at x
    exact (p.rests x).onHead enables
  · rw [own, wake] at x
    rw [own, state]
    exact p.waits x

theorem Poised.woken (p : Poised h s) (a : s.Accounts) : Woken h s :=
  ⟨a, fun x => holding_of (p.waits x)⟩

theorem Accounts.endWakeGood (a : s.Accounts) (p : Poised h s) (v : Service) (m : Bool) :
    Woken h (s.endWakeGood h v m) := by
  unfold State.endWakeGood
  refine Woken.serves ?_ (answerService_serves _ _ _ _)
  split
  · rename_i waking
    have none_ : (s.head h).pendingWake = none := by
      by_contra x
      exact absurd (waking.symm.trans (p.waits x)) (by simp)
    have free : s.holding h = .nothing := holding_of waking
    have idle : (s.setHeadState h .idle).holding h = .nothing := setHeadState_holding ..
    have after := a.quiet (setHeadState_quiet free (x := .idle) rfl)
    have wake : ((s.setHeadState h .idle).head h).pendingWake = none :=
      (setHeadState_wake ..).trans none_
    split
    · exact ⟨after.joinDefault idle ((p.rests free).onHead rfl),
        fun x => absurd ((joinDefault_pendingWake h _).trans wake) x⟩
    · exact ⟨after, fun x => absurd wake x⟩
  · exact p.woken a

theorem Accounts.endWake (a : s.Accounts) (p : Poised h s) (v : Service) (m : Bool) (e : ServiceEnd) :
    Woken h (s.endWake h v m e) := by
  unfold State.endWake
  split
  · exact (p.woken a).serves (endWakeBad_serves v s)
  · exact (p.woken a).serves (endWakeBad_serves v s)
  · exact a.endWakeGood p v m

theorem Woken.issuePendingWake (w : Woken h s) : (s.issuePendingWake h).Accounts := by
  unfold State.issuePendingWake
  split
  · rename_i mark _ wake
    have free := w.free (by simp [wake])
    have absent : s.Quiet (s.onHead h fun c => { c with pendingWake := none }) := onHead_quiet h s (.inl ⟨rfl, rfl⟩)
    exact w.accounts.quiet (absent.trans (startWake_quiet _ _ ((absent.holding h).trans free)))
  · exact w.accounts

/-- A service ends (R149). -/
theorem Accounts.endService (a : s.Accounts) (p : Poised h s) (v : Service) (e : ServiceEnd) :
    (s.endService h v e).Accounts := by
  have freed : s.Quiet (s.onHead h fun c => { c with slot := none }) := onHead_quiet h s (.inl ⟨rfl, rfl⟩)
  have poised : Poised h (s.onHead h fun c => { c with slot := none }) := p.onHead rfl rfl rfl
  have woken := poised.woken (a.quiet freed)
  unfold State.endService
  refine Woken.issuePendingWake ?_
  split
  · exact woken.serves (endSupplyOn_serves v e _)
  · exact woken.serves (endSupplyOff_serves v e _)
  · exact woken.serves (endAccess_serves v e _ _)
  · exact woken.serves (endAccess_serves v e _ _)
  · exact woken.serves (endSleep_serves v e _)
  · exact (a.quiet freed).endWake poised v _ e

/-! ## The START line -/

theorem edgeWake_quiet (free : s.holding h = .nothing) : s.Quiet (s.edgeWake h) := by
  unfold edgeWake
  simp only
  split
  · exact startWake_quiet _ _ free
  · exact onHead_quiet h s (.inl ⟨rfl, rfl⟩)

/-- A START edge (R156). -/
theorem Accounts.startEdge (a : s.Accounts) (rests : s.holding h = .nothing → s.Rests h) :
    (s.startEdge h).Accounts := by
  have raised := raiseFlag_quiet h s HeadFlag.startSeen
  have seen := a.quiet raised
  unfold State.startEdge
  simp only
  split
  · exact seen
  · rename_i standby
    have free : s.holding h = .nothing := holding_of standby
    exact (seen.quiet (edgeWake_quiet ((raised.holding h).trans free))).ite seen
  · rename_i idle
    have free : s.holding h = .nothing := holding_of idle
    exact (seen.joinDefault ((raised.holding h).trans free) ((rests free).onHead rfl)).ite seen
  · exact seen.quiet (raiseFlag_quiet h _ _)

theorem Accounts.recognise (a : s.Accounts) (rests : s.holding h = .nothing → s.Rests h) (l : LineLevel) :
    (s.recognise h l).Accounts := by
  have held : s.Quiet (s.onHead h fun c => { c with recognised := l, candidate := none }) :=
    onHead_quiet h s (.inl ⟨rfl, rfl⟩)
  exact ((a.quiet held).startEdge fun x => (rests ((held.holding h).symm.trans x)).onHead rfl).ite (a.quiet held)

theorem Accounts.filterChange (a : s.Accounts) (rests : s.holding h = .nothing → s.Rests h) (l : LineLevel) :
    (s.filterChange h l).Accounts := by
  unfold State.filterChange
  exact (a.quiet (onHead_quiet h s (.inl ⟨rfl, rfl⟩))).ite ((a.recognise rests l).ite
    (a.ite (a.quiet (onHead_quiet h s (.inl ⟨rfl, rfl⟩)))))

/-! ## The link -/

theorem Accounts.headOffLink (a : s.Accounts) : (s.headOffLink h).Accounts := by
  unfold State.headOffLink
  have off (free : s.holding h = .nothing) : s.Quiet (s.setHeadState h .offline) := setHeadState_quiet free rfl
  split <;> rename_i state
  · exact a
  · exact a.quiet ((off (holding_of state)).trans (resumeFilter_quiet h _))
  · exact a.quiet (off (holding_of state))
  · exact a.quiet (off (holding_of state))
  · exact a.withdraw (HeadState.holding_entry.mpr state) rfl
  · exact a.dropHead h .link
  · exact a
  · exact a

theorem Accounts.linkDown (a : s.Accounts) : (s.linkDown h).Accounts :=
  (a.quiet (((setSupply_quiet h s .off).trans (clearSlot_quiet h _)).trans (answerCancelled_quiet h _ _ _))).headOffLink

theorem Accounts.loseLink (a : s.Accounts) : (s.loseLink h).Accounts :=
  (a.quiet ((setLink_quiet h s .lost).trans (onHead_quiet h _ (.inl ⟨rfl, rfl⟩)))).linkDown

theorem lockLink_quiet (h : HeadId) (s : State) : s.Quiet (s.lockLink h) := by
  have locked : s.Quiet ((s.setLink h .locked).onHead h fun c => { c with missRun := 0 }) :=
    (setLink_quiet h s .locked).trans (onHead_quiet h _ (.inl ⟨rfl, rfl⟩))
  unfold lockLink
  simp only
  split
  · rename_i offline
    exact locked.trans (setHeadState_quiet ((locked.holding h).trans (holding_of offline)) rfl)
  · exact locked

theorem placedMark_quiet (h : HeadId) (s : State) : s.Quiet (s.placedMark h) := by
  unfold placedMark
  split
  · have counted : s.Quiet (s.onHead h fun c => { c with markRun := c.markRun + 1, awaitMark := false }) :=
      onHead_quiet h s (.inl ⟨rfl, rfl⟩)
    exact (counted.trans (lockLink_quiet h _)).ite counted
  · exact onHead_quiet h s (.inl ⟨rfl, rfl⟩)
  · exact .refl s

theorem Accounts.misplacedMark (a : s.Accounts) (p : Fin 16) : (s.misplacedMark h p).Accounts := by
  unfold State.misplacedMark
  refine (a.quiet (placedMark_quiet h s)).ite ?_
  split
  · split <;> exact a.quiet (onHead_quiet h s (.inl ⟨rfl, rfl⟩))
  · have missed : s.Quiet (s.onHead h fun c => { c with missRun := c.missRun + 1, awaitMark := false }) :=
      onHead_quiet h s (.inl ⟨rfl, rfl⟩)
    exact (a.quiet missed).loseLink.ite (a.quiet missed)
  · exact a

theorem Accounts.lossOfSignal (a : s.Accounts) : (s.lossOfSignal h).Accounts := by
  unfold State.lossOfSignal
  split
  · exact a.quiet (onHead_quiet h s (.inl ⟨rfl, rfl⟩))
  · exact a.loseLink.ite a
  · exact a

theorem Accounts.configureLink (a : s.Accounts) (e l : Bool) (m : AlignMode) : (s.configureLink h e l m).Accounts := by
  have stored : (s.onHead h fun c => { c with linkEnable := e, losDetect := l, alignMode := m }).Accounts :=
    a.quiet (onHead_quiet h s (.inl ⟨rfl, rfl⟩))
  have enabled {t : State} (b : t.Accounts) (changed : Bool) : (t.enableLink h changed).Accounts := by
    unfold enableLink
    split
    · exact b.quiet ((setLink_quiet h t .seeking).trans (onHead_quiet h _ (.inl ⟨rfl, rfl⟩)))
    · exact (b.quiet (onHead_quiet h t (.inl ⟨rfl, rfl⟩))).ite b
    · exact b
  have disabled {t : State} (b : t.Accounts) : (t.disableLink h).Accounts := by
    unfold disableLink
    split
    · exact b
    · exact (b.quiet ((setLink_quiet h t .off).trans (onHead_quiet h _ (.inl ⟨rfl, rfl⟩)))).linkDown
  exact (enabled stored _).ite (disabled stored)

end
end Sys2Proof.Machine.State
end

section
/-!
The account of plan uses at HEAD_RESET, at the bin interface, in the engine and in the Capture Unit (R59, R66 to R79,
R160, R165 to R169, R5 to R18).
-/

namespace Sys2Proof.Machine.State

/-! ## HEAD_RESET -/

section
variable {h : HeadId} {s t u : State}

theorem Others.refl (h : HeadId) (s : State) : Others h s s :=
  ⟨⟨rfl, rfl⟩, fun _ _ => .rfl, fun _ _ => .of_eq rfl fun _ => rfl⟩

theorem Others.ite {c : Prop} [Decidable c] (a : Others h s t) (b : Others h s u) :
    Others h s (if c then t else u) := by
  split <;> assumption

/-- What HEAD_RESET does to the plan use and the queue entry (R160, R37). -/
def leaveQueue (h : HeadId) (s : State) : State := (s.dropUse (s.headSlot h)).unqueue h

/-- What HEAD_RESET clears beside the plan use and the queue entry, but for the head's own context (R160, R26, R61). -/
def clearParts (on : SiteSet) (h : HeadId) (s : State) : State :=
  (((s.abandonJob h).onBin h BinPort.withdrawn).clearCapture h).mapSites h fun i _ =>
    SiteContext.afterReset (on.getLsbD i.val)

/-- What HEAD_RESET makes of the head's own context (R160). -/
def resetContext (h : HeadId) (s : State) : State := (((s.clearSlot h).resetSupply h).resetLink h).resetHeadState h

theorem resetParts_eq (h : HeadId) (s : State) :
    s.resetParts h = resetContext h (clearParts (s.head h).enableSet h (leaveQueue h s)) := rfl

theorem leaveQueue_same (h : HeadId) (s : State) : SameBut [.store, .arbiter] s (leaveQueue h s) :=
  (dropUse_same _ s).comp (unqueue_same h _) (by decide) (by decide)

theorem leaveQueue_others (h : HeadId) (s : State) : Others h s (leaveQueue h s) :=
  ((dropUse_same _ s).others (by decide) h).trans (unqueue_others h _)

theorem leaveQueue_queue (h : HeadId) (s : State) :
    (leaveQueue h s).arbiter.queue = s.arbiter.queue.filter fun e => e.head != h := by
  show (s.dropUse (s.headSlot h)).arbiter.queue.filter _ = _
  rw [show (s.dropUse (s.headSlot h)).arbiter = s.arbiter from dropUse_same _ s .arbiter (by decide)]

theorem clearCapture_same (h : HeadId) (s : State) : SameBut [.capture] s (s.clearCapture h) :=
  (freeHeadEntries_same h s).trans (onCapture_same _ _)

theorem clearParts_same (on : SiteSet) (h : HeadId) (s : State) :
    SameBut [.alloc, .bins, .capture, .sites] s (clearParts on h s) :=
  (((onAlloc_same _ s).comp (onBin_same h _ _) (k := [.alloc, .bins]) (by decide) (by decide)).comp
    (clearCapture_same h _) (k := [.alloc, .bins, .capture]) (by decide) (by decide)).comp (mapSites_same h _ _)
      (by decide) (by decide)

theorem clearParts_others (on : SiteSet) (h : HeadId) (s : State) : Others h s (clearParts on h s) :=
  ((((onAlloc_same _ s).others (by decide) h).trans ((onBin_same h _ _).others (by decide) h)).trans
    ((clearCapture_same h _).others (by decide) h)).trans (mapSites_others h _ _)

theorem resetSupply_same (h : HeadId) (s : State) : SameBut [.heads, .wire] s (s.resetSupply h) :=
  (SameBut.refl _ s).ite ((issueService_same h _ _ s).comp (setSupply_same h _ _) (by decide) (by decide))

theorem resetLink_same (h : HeadId) (s : State) : SameBut [.heads] s (s.resetLink h) := by
  unfold resetLink
  split
  · exact onHead_same h _ s
  · exact (setLink_same h _ s).trans (onHead_same h _ _)
  · exact onHead_same h _ s
  · exact .refl _ s

theorem resetHeadState_same (h : HeadId) (s : State) : SameBut [.heads] s (s.resetHeadState h) := by
  unfold resetHeadState
  split
  · exact .refl _ s
  · exact (setHeadState_same h _ s).trans (pauseFilter_same h _)
  · exact setHeadState_same h _ s

theorem resetContext_same (h : HeadId) (s : State) : SameBut [.heads, .wire] s (resetContext h s) :=
  (((clearSlot_same h s).comp (resetSupply_same h _) (k := [.heads, .wire]) (by decide) (by decide)).comp
    (resetLink_same h _) (k := [.heads, .wire]) (by decide) (by decide)).comp (resetHeadState_same h _) (by decide)
      (by decide)

theorem issueService_others (h : HeadId) (op : ServiceOp) (o : ServiceOrigin) (s : State) :
    Others h s (s.issueService h op o) := (onHead_others h _ s).trans ((sendHead_same h _ _).others (by decide) h)

theorem resetLink_others (h : HeadId) (s : State) : Others h s (s.resetLink h) := by
  unfold resetLink
  split
  · exact onHead_others h _ s
  · exact ((onHead_others h _ s).trans (onHead_others h _ _)).trans (onHead_others h _ _)
  · exact onHead_others h _ s
  · exact .refl h s

theorem resetHeadState_others (h : HeadId) (s : State) : Others h s (s.resetHeadState h) := by
  unfold resetHeadState
  split
  · exact .refl h s
  · exact (onHead_others h _ s).trans (onHead_others h _ _)
  · exact onHead_others h _ s

theorem resetContext_others (h : HeadId) (s : State) : Others h s (resetContext h s) :=
  (((onHead_others h _ s).trans ((Others.refl h _).ite
    ((issueService_others h _ _ _).trans (onHead_others h _ _)))).trans (resetLink_others h _)).trans
      (resetHeadState_others h _)

theorem restState_free (h : HeadId) (s : State) : (s.restState h).holding = .nothing := by
  unfold restState
  split <;> rfl

/-- After HEAD_RESET the head uses no plan (R160). -/
theorem resetHeadState_holding (h : HeadId) (s : State) : (s.resetHeadState h).holding h = .nothing := by
  unfold resetHeadState
  split
  · rename_i standby
    exact holding_of standby
  · exact ((pauseFilter_quiet h _).holding h).trans (setHeadState_holding ..)
  · exact (setHeadState_holding ..).trans (restState_free h s)

theorem resetContext_holding (h : HeadId) (s : State) : (resetContext h s).holding h = .nothing :=
  resetHeadState_holding h _

/-- HEAD_RESET of a head that is not in the run (R160, R37). -/
theorem Accounts.resetParts (a : s.Accounts) (away : s.holding h ≠ .run) : (s.resetParts h).Accounts := by
  rw [resetParts_eq]
  have left := leaveQueue_same h s
  have same : SameBut [.alloc, .bins, .capture, .sites, .heads, .wire] (leaveQueue h s) _ :=
    (clearParts_same (s.head h).enableSet h _).comp (resetContext_same h _) (by decide) (by decide)
  have others := ((leaveQueue_others h s).trans (clearParts_others (s.head h).enableSet h _)).trans
    (resetContext_others h _)
  have free := resetContext_holding h (clearParts (s.head h).enableSet h (leaveQueue h s))
  have queue := (congrArg Arbiter.queue (same .arbiter (by decide))).trans (leaveQueue_queue h s)
  have group := congrArg RunController.group ((same .run (by decide)).trans (left .run (by decide)))
  exact a.changed (a.ledger.leaves others free queue (same .store (by decide))) others group away (by simp [free])

/-- The effect of a drop on the run brings no head into it (R110, R126). -/
theorem Accounts.afterDrop_away (a : s.Accounts) (away : s.holding h ≠ .run) : s.afterDrop.holding h ≠ .run := by
  unfold State.afterDrop
  split
  · rwa [(abortRun_quiet _ s).holding]
  · split <;> rename_i state
    · split
      · rwa [(a.makeDecision (by rw [state]; rfl)).holding]
      · exact away
    · split
      · exact (a.normalEnd (by rw [state]; rfl)).none_inRun rfl h
      · exact away
    · exact away

/-- After the drop that comes before the rest of a HEAD_RESET the head is not in the run (R160). -/
theorem Accounts.dropForReset (a : s.Accounts) (h : HeadId) :
    (s.dropForReset h).Accounts ∧ (s.dropForReset h).holding h ≠ .run := by
  unfold State.dropForReset
  split
  · rename_i inRun
    have member := (a.grouped h).mp (HeadState.holding_run.mpr inRun)
    obtain ⟨removed, sites⟩ := a.removeHead member .reset
    rw [show s.dropHead h .reset = (s.removeHead h .reset).afterDrop from if_pos member]
    exact ⟨removed.afterDrop, removed.afterDrop_away (by simp [sites])⟩
  · rename_i away
    exact ⟨a, fun x => away (HeadState.holding_run.mp x)⟩

theorem answerAbandoned_quiet (j : Option Job) (s : State) : s.Quiet (s.answerAbandoned j) := by
  unfold answerAbandoned
  split
  · exact answer_quiet s _ _ _ _
  · exact .refl s

/-- The whole HEAD_RESET of a head (R160). -/
theorem Accounts.resetHead (a : s.Accounts) (q : Request) (h : HeadId) : (s.resetHead q h).Accounts := by
  obtain ⟨dropped, away⟩ := a.dropForReset h
  exact (dropped.resetParts away).quiet (((answerAbandoned_quiet _ _).trans (answerCancelled_quiet h _ _ _)).trans
    (answer_quiet _ _ _ _ _))

/-! ## The bin interface -/

/-- A head leaves BIN_WAIT (R167, R169, R37). -/
theorem Accounts.leaveBinWait (a : s.Accounts) (sites : s.holding h = .sites) (flag : BitVec 10) :
    (s.leaveBinWait h flag).Accounts := by
  have bin : SameBut [.bins, .heads] s ((s.onBin h BinPort.withdrawn).raiseFlag h flag) :=
    (onBin_same h _ s).comp (raiseFlag_same h _ _) (by decide) (by decide)
  have released : SameBut [.bins, .heads, .sites, .capture] s
      (((s.onBin h BinPort.withdrawn).raiseFlag h flag).releaseSites h) :=
    bin.comp (releaseSites_same h _) (by decide) (by decide)
  have dropped := dropUse_same (s.siteSlot h) (((s.onBin h BinPort.withdrawn).raiseFlag h flag).releaseSites h)
  have others : Others h s (s.leaveBinWait h flag) :=
    (((((onBin_same h _ s).others (by decide) h).trans (onHead_others h _ _)).trans
      ((mapSites_others h _ _).trans ((freeHeadEntries_same h _).others (by decide) h))).trans
        (dropped.others (by decide) h)).trans (onHead_others h _ _)
  have free : (s.leaveBinWait h flag).holding h = .nothing := (setHeadState_holding ..).trans (restState_free h s)
  refine a.changed (a.ledger.leaves_unqueued others (by simp [sites]) free ?_ ?_) others ?_ (by simp [sites])
    (by simp [free])
  · exact congrArg Arbiter.queue ((dropped .arbiter (by decide)).trans (released .arbiter (by decide)))
  · rw [headSlot_of sites]
    exact dropUse_store (s.siteSlot h) (released .store (by decide))
  · exact congrArg RunController.group ((dropped .run (by decide)).trans (released .run (by decide)))

/-- An edge of BCLK (R163, R166, R167). -/
theorem Accounts.bclkTo (a : s.Accounts) (frames : (s.bin h).frame.isSome = true → s.holding h = .sites)
    (l : LineLevel) : (s.bclkTo h l).Accounts := by
  have driven := onLines_quiet h s fun x => { x with bclk := l }
  have shifted := fun f => driven.trans (onBin_quiet h _ f)
  unfold State.bclkTo
  split
  · exact a
  · simp only
    split
    · exact a.quiet driven
    · rename_i frame present
      have sites := frames (by rw [present]; rfl)
      split
      · exact a.quiet (shifted _)
      · split
        · exact ((a.quiet (shifted _)).leaveBinWait (((shifted _).holding h).trans sites) _).ite (a.quiet (shifted _))
        · exact a.quiet driven

/-- BIN_DELIVERY (R166, R167). -/
theorem Accounts.completeFrame (a : s.Accounts) (frames : (s.bin h).frame.isSome = true → s.holding h = .sites) :
    (s.completeFrame h).Accounts := by
  have driven := onLines_quiet h s fun l => { l with bclk := bclkIdle (s.bin h).format }
  unfold State.completeFrame
  simp only
  split
  · rename_i frame present
    have sites := frames (by rw [present]; rfl)
    exact ((a.quiet driven).leaveBinWait ((driven.holding h).trans sites) _).reported
  · exact a.quiet driven

/-! ## The engine -/

/-- The frame is loaded, and the head uses its plan by its sites as before (R165). -/
theorem loadFrame_quiet (sites : s.holding h = .sites) : s.Quiet (s.loadFrame h) := by
  unfold loadFrame
  split
  · exact .refl s
  · split
    · exact .refl s
    · exact (onBin_quiet h s _).trans (onHead_quiet h _ (.inl ⟨sites.symm, rfl⟩))

theorem resolveSite_quiet {i : SiteId} (u : Nat) (o : SiteOutcome) (l : Option (List RepairLine))
    (apart : (s.site h i).state ≠ .ready) : s.Quiet (s.resolveSite h i u o l) :=
  (onSite_quiet (f := SiteContext.resolve o l) h i rfl fun x => absurd x apart).trans (onAlloc_quiet _ _)

theorem endJob_quiet (j : Job) (e : Engine) (sites : s.holding j.head = .sites) : s.Quiet (s.endJob j e) := by
  have left := onAlloc_quiet s fun a => { jobs := a.jobs.tail, engine := none }
  exact ((left.trans (loadFrame_quiet ((left.holding j.head).trans sites))).ite left).trans
    ((reportJob_same _ _ _ _ _).quiet (by decide))

section
variable {j : Job} {i : SiteId} (sites : s.holding j.head = .sites) (apart : (s.site j.head i).state ≠ .ready)
include sites apart

theorem exhausted_quiet (e : Engine) (w : Work) : s.Quiet (s.exhausted j e i w) := by
  have stopped : s.Quiet (s.onSite j.head i fun c => { c with state := .incomplete, context := some w }) :=
    onSite_quiet j.head i rfl fun x => absurd x apart
  exact ((resolveSite_quiet _ _ _ apart).trans ((spendAll_same _).quiet (by decide))).ite
    (stopped.trans (endJob_quiet j e ((stopped.holding j.head).trans sites)))

theorem allocate_quiet (e : Engine) (w : Work) : s.Quiet (s.allocate j e i w) := by
  unfold allocate
  simp only
  split
  · exact ((keepWork_same _ _ _ s).quiet (by decide)).ite (exhausted_quiet sites apart _ _)
  · exact (resolveSite_quiet _ _ _ apart).ite (exhausted_quiet sites apart _ _)
  · exact resolveSite_quiet _ _ _ apart

theorem takeSite_quiet (e : Engine) : s.Quiet (s.takeSite j e i) := by
  unfold takeSite
  simp only
  split
  · exact resolveSite_quiet _ _ _ apart
  · split
    · exact allocate_quiet sites apart _ _
    · split
      · exact allocate_quiet sites apart _ _
      · exact resolveSite_quiet _ _ _ apart

end

/-- The site that the engine works on is not READY (R67). -/
theorem nextSite_apart {n : Nat} {i : SiteId} (found : s.nextSite h n = some i) : (s.site h i).state ≠ .ready := by
  have place := List.find?_some found
  simp only [Bool.and_eq_true, Bool.or_eq_true, beq_iff_eq] at place
  rcases place.2 with x | x <;> simp [x]

/-- A move of the engine leaves the account (R66). -/
theorem engineMove_quiet (analysed : ∀ j ∈ s.alloc.jobs, s.holding j.head = .sites) : s.Quiet s.engineMove := by
  unfold engineMove
  split
  · rename_i e j rest _ jobs
    have sites := analysed j (by simp [jobs])
    unfold moveJob
    split
    · exact endJob_quiet j e sites
    · rename_i i found
      split
      · exact allocate_quiet sites (nextSite_apart found) _ _
      · exact takeSite_quiet sites (nextSite_apart found) _
  · exact .refl s

/-! ## The Capture Unit -/

theorem handRaise_quiet (w : FailWord) (c : FailCause) (r : Option Nat) (s : State) : s.Quiet (s.handRaise w c r) :=
  (handRaise_same w c r s).quiet (by decide)

theorem withTable_quiet (x : FailTable) (s : State) : s.Quiet (s.withTable x) :=
  onCapture_quiet s fun c => { c with table := x }

/-- An entry that is added is paid with spares of the site alone (R14, R16). -/
theorem Adds.kept {w : FailWord} {k : Nat} {c : SiteContext} {key : EntryKey} {covered : EntryKey → Bool}
    {paid : SiteContext → SiteContext} (adds : Adds w k c key covered paid) (d : SiteContext) :
    (paid d).entry.map RunEntry.slot = d.entry.map RunEntry.slot ∧ (paid d).state = d.state := by
  cases adds with
  | cell => exact ⟨rfl, rfl⟩
  | row _ => exact ⟨by simp [SiteContext.onSpares, Function.comp_def], rfl⟩
  | column _ => exact ⟨by simp [SiteContext.onSpares, Function.comp_def], rfl⟩

/-- A fail word on the path of an ANALYSE region (R10 to R18). -/
theorem Path.quiet {w : FailWord} {k : Nat} (p : Path w k s t) : s.Quiet t := by
  cases p with
  | hit n x => exact (addHit_same n x s).quiet (by decide)
  | raise c => exact handRaise_quiet w c _ s
  | mark => exact (onCapture_quiet s _).trans (onSite_quiet w.head w.site rfl id)
  | add i n adds _ =>
    exact (withTable_quiet _ s).trans (onSite_quiet w.head w.site (adds.kept _).1 fun x => (adds.kept _).2.trans x)

/-- A fail word leaves the account (R6 to R19). -/
theorem failTaken_quiet (w : FailWord) (s : State) : s.Quiet (s.failTaken w) := by
  have watched : s.Quiet (s.watched w) :=
    (onSite_quiet (f := fun c => { c with failCount := satInc 65535 c.failCount }) w.head w.site rfl id).trans
      ((watchCheck_same w _).quiet (by decide))
  show s.Quiet ((s.watched w).failLookup w)
  refine watched.trans ?_
  unfold failLookup
  split
  · exact (onSite_quiet w.head w.site rfl id).trans (handRaise_quiet _ _ _ _)
  · unfold failInRegion
    split
    · exact .refl _
    · exact onSite_quiet w.head w.site rfl id
    · exact (Quiet.refl _).ite (analysePath_path w _ _).quiet

theorem Accounts.failFrame (a : s.Accounts) (h : HeadId) (i k : Byte) (r c : Half) (waits : Bool) :
    (s.failFrame h i k r c waits).Accounts := by
  unfold State.failFrame
  split
  · rename_i w _
    have taken := a.quiet (failTaken_quiet w s)
    exact (taken.ite taken.takeRaises).emitted
  · exact a

end
end Sys2Proof.Machine.State
end

section
/-!
The account of plan uses under the Feed Link, the tallies and RESUME (R92 to R107, R113 to R120, R137 to R139).
-/

namespace Sys2Proof.Machine.State

section
variable {s t : State}

/-! ## Records -/

/-- The tally wait of a run under way begins (R92). -/
theorem startTally_quiet {x : RunState} (active : s.run.state.active = true) (waits : x.active = true) :
    s.Quiet (s.startTally x) :=
  onRun_quiet s rfl rfl (iff_of_false (RunState.active_ne_none waits) (RunState.active_ne_none active)) fun _ => active

theorem setPartFlag_quiet (x : BitVec 4) (s : State) : s.Quiet (s.setPartFlag x) :=
  (setPartFlag_same x s).quiet (by decide)

theorem sendHeads_quiet (set : HeadSet) (f : HeadFrame) (s : State) : s.Quiet (s.forHeads set fun h => sendHead h f) :=
  (forHeads_same (fun h t => sendHead_same h f t) set s).quiet (by decide)

section
variable (a : s.Accounts)
include a

theorem Accounts.openGate (limit : Half) : (s.openGate limit).Accounts :=
  (a.quiet (onGates_quiet s _)).ite (a.raiseException _)

theorem Accounts.closeGate (active : s.run.state.active = true) : s.closeGate.Accounts := by
  have phantom : s.Quiet s.closePhantom :=
    ((sendHeads_quiet _ _ s).trans (onGates_quiet _ _)).trans (sendSource_quiet _ _)
  have decision : s.Quiet s.beginDecision := (onGates_quiet s _).trans (startTally_quiet active rfl)
  unfold State.closeGate
  refine (a.quiet phantom).ite ?_
  split
  · exact a.raiseException _
  · exact a.quiet decision

/-- A record taken in STREAMING (R97, R98). -/
theorem Accounts.takeRecord (r : FeedRecord) (streaming : s.run.state = .streaming) : (s.takeRecord r).Accounts := by
  have counted : s.Quiet (s.onRun fun c => { c with recordCount := c.recordCount + 1 }) :=
    onRun_quiet_same s rfl rfl rfl
  have sent := forward_same r (s.onRun fun c => { c with recordCount := c.recordCount + 1 })
  have taken := a.quiet (counted.trans (sent.quiet (by decide)))
  have active : ((s.onRun fun c => { c with recordCount := c.recordCount + 1 }).forward r).run.state.active = true := by
    rw [show ((s.onRun fun c => { c with recordCount := c.recordCount + 1 }).forward r).run = _ from
      sent .run (by decide), onRun_run, streaming]
    rfl
  unfold State.takeRecord
  cases r with
  | block _ => exact taken
  | gateOpen limit => exact taken.openGate limit
  | gateClose => exact taken.closeGate active
  | endRecord =>
    have emptied : Quiet _ (((s.onRun fun c => { c with recordCount := c.recordCount + 1 }).forward .endRecord).onRun
      fun r => { r with tallied := 0 }) := onRun_quiet_same _ rfl rfl rfl
    exact taken.quiet (emptied.trans (startTally_quiet active rfl))

theorem Accounts.arriveRecord (r : FeedRecord) : (s.arriveRecord r).Accounts := by
  have faulty (f : RunFault) := a.quiet (feedFault_quiet f s)
  unfold State.arriveRecord
  split
  · exact a.quiet (setPartFlag_quiet _ s)
  · exact faulty _
  · rename_i streaming
    exact a.takeRecord r streaming
  · exact faulty _
  · exact faulty _
  · exact (a.quiet (onRun_quiet_same s rfl rfl rfl)).ite (faulty _)
  · exact a

/-! ## Messages and the run timer -/

theorem Accounts.illFormed : s.illFormed.Accounts := by
  unfold State.illFormed
  split
  · exact a.quiet (setPartFlag_quiet _ s)
  · exact a
  · exact a.quiet (feedFault_quiet _ s)

omit a in
theorem endFeedReset_quiet (g : Byte) (b : Bool) (st : Status) (s : State) : s.Quiet (s.endFeedReset g b st) :=
  (onRun_quiet_same s rfl rfl rfl).trans (answer_quiet _ _ _ _ _)

theorem Accounts.acceptMessage (n : Half) : (s.acceptMessage n).Accounts := by
  unfold State.acceptMessage
  split
  · rename_i starting
    exact a.startRun starting.1
  · exact a

theorem Accounts.declineMessage (x : Byte) : (s.declineMessage x).Accounts := (a.endWithoutStart _).ite a

theorem Accounts.haltedMessage : s.haltedMessage.Accounts := by
  unfold State.haltedMessage
  split
  · rename_i halting
    exact a.abortedEnd (by simp [halting])
  · exact a

theorem Accounts.sourceMessage (m : Option SourceInput) : (s.sourceMessage m).Accounts := by
  unfold State.sourceMessage
  split
  · split
    · exact a.quiet (endFeedReset_quiet _ _ _ s)
    · exact a
  · split
    · exact a.illFormed
    · exact a.acceptMessage _
    · exact a.declineMessage _
    · exact a.arriveRecord _
    · exact a.haltedMessage
    · exact a

omit a in
/-- The run timer runs in a state of the run. -/
theorem timerRunsIn_iff {x : RunState} : s.timerRunsIn x = true ↔ s.run.state = x ∧ s.run.timer.isSome = true := by
  simp [timerRunsIn]

theorem Accounts.suspect : s.suspect.Accounts := a.quiet (onRun_quiet_same s rfl rfl rfl)

theorem Accounts.acceptExpiry : s.acceptExpiry.Accounts := ((a.endWithoutStart _).suspect.settled).ite a

theorem Accounts.haltExpiry : s.haltExpiry.Accounts := by
  unfold State.haltExpiry
  split
  · rename_i runs
    exact (a.abortedEnd (by simp [(timerRunsIn_iff.mp runs).1])).suspect.settled
  · exact a

theorem Accounts.resetExpiry : s.resetExpiry.Accounts := by
  unfold State.resetExpiry
  split
  · exact (a.quiet (endFeedReset_quiet _ _ _ s)).emitted.ite a
  · exact a

theorem Accounts.tallyExpiry (x : RunState) : (s.tallyExpiry x).Accounts := by
  have stopped : s.Quiet (s.onRun fun r => { r with timer := none }) := onRun_quiet_same s rfl rfl rfl
  exact ((a.quiet stopped).raiseException _).settled.ite a

/-! ## Tallies -/

theorem Accounts.passTallyFrame (h : HeadId) (d p : Half) (m : SiteSet) : (s.passTallyFrame h d p m).Accounts := by
  have taken := a.quiet (onGates_quiet s fun g => { g with collected := upd g.collected h fun _ => some m })
  unfold State.passTallyFrame
  refine Accounts.ite (Accounts.emitted ?_) a
  split
  · rename_i deciding
    exact taken.quiet (taken.makeDecision (by rw [deciding.1]; rfl))
  · exact taken

theorem Accounts.endTallyFrame (h : HeadId) : (s.endTallyFrame h).Accounts := by
  have taken : (s.onRun fun r => { r with tallied := r.tallied ||| (1#4 <<< h.val) }).Accounts :=
    a.quiet (onRun_quiet_same s rfl rfl rfl)
  unfold State.endTallyFrame
  refine Accounts.ite (Accounts.settled ?_) a
  split
  · rename_i draining
    exact taken.normalEnd (by rw [draining.1]; rfl)
  · exact taken

/-! ## RESUME -/

theorem Accounts.completeWait : s.completeWait.Accounts := by
  unfold State.completeWait
  split
  · rename_i deciding
    have active : s.run.state.active = true := by rw [deciding]; rfl
    exact (a.quiet (a.makeDecision active)).ite (a.quiet (startTally_quiet active rfl))
  · rename_i draining
    have active : s.run.state.active = true := by rw [draining]; rfl
    exact (a.normalEnd active).ite (a.quiet (startTally_quiet active rfl))
  · exact a

omit a in
theorem Accounts.replay (l : List FeedRecord) (a : s.Accounts) : (replay l s).Accounts := by
  induction l generalizing s with
  | nil => exact a
  | cons r rest ih =>
    have taken : (s.onRun fun c => { c with buffer := rest }).Accounts := a.quiet (onRun_quiet_same s rfl rfl rfl)
    exact (ih (taken.arriveRecord r)).ite a

theorem Accounts.replayBuffer : s.replayBuffer.Accounts := by
  have played := a.replay s.run.buffer
  exact (played.quiet ((sendSource_quiet _ _).trans (onRun_quiet_same _ rfl rfl rfl))).ite played

/-- A RESUME of a held run (R137). -/
theorem Accounts.resumeRun (x : HoldRecord) {r : RunState} (held : s.run.state = .held) (returns : r.active = true) :
    (s.resumeRun x r).Accounts := by
  have ended : s.Quiet (s.endHold r) :=
    onRun_quiet s rfl rfl (iff_of_false (RunState.active_ne_none returns) (by simp [held])) fun _ => by rw [held]; rfl
  exact (((a.quiet ended).applyDefault _).completeWait).replayBuffer

end
end
end Sys2Proof.Machine.State
end

section
/-!
Every step keeps the account of plan uses (the twelfth law, R36 to R38): the requests at their owners, the resets, and
the commands one by one, from what the laws say before the step.
-/

namespace Sys2Proof.Machine

namespace State

/-! ## The Plan Store and the resets -/

section
variable {s t : State}

/-- A slot that no head uses is written (R39, R42). -/
theorem Accounts.writeSlot {i : SlotId} (a : s.Accounts) (unused : s.useCount i = 0) (p : Option Plan) :
    (s.writeSlot i p).Accounts where
  ledger := {
    running := a.ledger.running
    entries := a.ledger.entries
    heads := fun h => ⟨(a.ledger.heads h).queued, (a.ledger.heads h).rested, (a.ledger.heads h).current,
      (a.ledger.heads h).staffed⟩
    counted := fun j => (writeSlot_useCount p j).trans (a.ledger.counted j)
    loaded := fun j used => by
      rw [writeSlot_useCount] at used
      have other : j ≠ i := fun same => used (same ▸ unused)
      rw [writeSlot_planAt, if_neg other]
      exact a.ledger.loaded j used }
  grouped := a.grouped
  idle := a.idle

/-- A change of the Plan Store that leaves its slots (R181). -/
theorem setClassMap_quiet (m : Vector (Fin 4) 8) (s : State) : s.Quiet (s.onStore fun t => { t with classMap := m }) :=
  ⟨rfl, rfl, rfl, rfl, .of_eq rfl, .rfl, fun _ => .inl (.of_eq rfl fun _ => rfl)⟩

/-- The flags of the heads are cleared (R180). -/
theorem clearEvents_quiet (b : EventsBody) (s : State) : s.Quiet (s.clearEvents b) := by
  have own (h : HeadId) : (s.clearEvents b).head h =
      { s.head h with flags := (s.head h).flags &&& ~~~(b.headClear[h].extractLsb' 0 10) } := by
    simp [clearEvents, State.head]
  exact .of_heads rfl rfl rfl fun h => .inl ⟨by rw [holding, own]; rfl, by rw [own], fun _ => rfl, fun _ _ x => x⟩

/-- After a reset no head uses a plan (R43, R183, R184). -/
theorem resetBlocks_accounts (s : State) : s.resetBlocks.Accounts := by
  have free (h : HeadId) : s.resetBlocks.holding h = .nothing := by
    simp [holding, resetBlocks, State.head, HeadContext.reset, HeadState.holding]
  have counts (i : SlotId) : s.resetBlocks.useCount i = 0 := by
    simp [useCount, resetBlocks, State.reset, PlanStore.reset]
  refine ⟨⟨fun x => absurd rfl x, List.nodup_nil, fun h => .free (free h) fun e mem => absurd mem List.not_mem_nil,
    fun i => ?_, fun i x => absurd (counts i) x⟩, fun h => ?_, fun _ => rfl⟩
  · rw [counts, users, Eq.comm, List.length_eq_zero_iff, List.filter_eq_nil_iff]
    exact fun h _ => by rw [headSlot_of (free h)]; simp [slotBy]
  · rw [free]
    exact iff_of_false (by simp) (by simp [inGroup, resetBlocks, State.reset, RunController.reset])

end

/-! ## What stands before a step -/

/-- The account, with what else a step leans on: heads without a plan rest, a pending wake is that of a STANDBY head, a
hold returns to a run under way, and jobs and bin frames are those of heads that use their plan by their sites. -/
structure Standing (s : State) : Prop where
  accounts : s.Accounts
  poised : ∀ h, Poised h s
  returns : ∀ r, s.run.returnState = some r → r.active = true
  analysed : ∀ j ∈ s.alloc.jobs, s.holding j.head = .sites
  frames : ∀ h, (s.bin h).frame.isSome = true → s.holding h = .sites

section
variable {s t : State}

theorem Standing.onPort (st : s.Standing) (f : ControlPort → ControlPort) : (s.onPort f).Standing :=
  ⟨st.accounts.quiet (onPort_quiet s f), fun h => ⟨(st.poised h).rests, (st.poised h).waits⟩, st.returns, st.analysed,
    st.frames⟩

theorem Standing.withPending (st : s.Standing) (q : List Instr) : (s.withPending q).Standing := by
  have same : s.Quiet (s.withPending q) := .of_heads rfl rfl rfl fun _ => .inl (.of_eq rfl fun _ => rfl)
  exact ⟨st.accounts.quiet same, fun h => ⟨(st.poised h).rests, (st.poised h).waits⟩, st.returns, st.analysed,
    st.frames⟩

/-- A request keeps the account when its owner does. -/
theorem Standing.request (st : s.Standing) {q : Request} {owner : State → State}
    (h : ∀ {t : State}, t.Standing → (owner t).Accounts) : (takeRequest q owner s).Accounts := by
  cases e : s.port.offer q with
  | none =>
    rw [takeRequest_arrives e]
    exact (st.onPort _).accounts.emitted
  | some p =>
    rw [takeRequest_taken e]
    exact h (st.onPort fun _ => p)

end

/-! ## Requests -/

section
variable {s : State} (st : s.Standing) (q : Request)
include st

theorem Standing.configureRequest (b : ConfigureBody) : (s.configureRequest q b).Accounts := by
  unfold State.configureRequest
  split
  · exact st.accounts.refused q _
  · exact (st.accounts.quiet ((onPort_quiet s _).trans (setClassMap_quiet _ _))).replied q _

theorem Standing.eventsReadRequest (b : EventsBody) : (s.eventsReadRequest q b).Accounts :=
  (st.accounts.quiet (clearEvents_quiet b s)).replied q _

omit st in
theorem partResetRequest_accounts (s : State) : (s.partResetRequest q).Accounts :=
  (resetBlocks_accounts _).replied q _

omit st q in
theorem powerOn_accounts (s : State) : s.powerOn.Accounts := (resetBlocks_accounts s).quiet (onPort_quiet _ _)

theorem Standing.planLoadRequest (b : PlanBody) : (s.planLoadRequest q b).Accounts := by
  unfold State.planLoadRequest
  have refused := st.accounts.refused q
  split
  · exact refused _
  · split
    · exact refused _
    · rename_i unused
      split
      · exact refused _
      · exact (st.accounts.writeSlot (Decidable.not_not.mp unused) _).replied q _

theorem Standing.planReadRequest (x : Byte) : (s.planReadRequest q x).Accounts := by
  unfold State.planReadRequest
  split
  · exact st.accounts.refused q _
  · exact st.accounts.replied q _

theorem Standing.planFreeRequest (x : Byte) : (s.planFreeRequest q x).Accounts := by
  unfold State.planFreeRequest
  have refused := st.accounts.refused q
  split
  · exact refused _
  · split
    · exact refused _
    · rename_i unused
      exact (st.accounts.writeSlot (Decidable.not_not.mp unused) _).replied q _

theorem Standing.siteEnableRequest (x : Byte) (set : SiteSet) : (s.siteEnableRequest q x set).Accounts := by
  have enabled {h : HeadId} (free : s.holding h = .nothing) : ((s.enableSites h set).answerOk q []).emit.Accounts :=
    (st.accounts.quiet (enableSites_quiet set free)).replied q _
  unfold State.siteEnableRequest
  split
  · exact st.accounts.refused q _
  · split <;> rename_i state
    · exact enabled (holding_of state)
    · exact enabled (holding_of state)
    · exact enabled (holding_of state)
    · exact st.accounts.refused q _

theorem Standing.headLinkRequest (x e l m : Byte) : (s.headLinkRequest q x e l m).Accounts := by
  unfold State.headLinkRequest
  split
  · exact ((st.accounts.configureLink _ _ _).answered _ _ _ _).settled
  · exact st.accounts.refused q _

theorem Standing.linkShiftRequest (x : Byte) : (s.linkShiftRequest q x).Accounts := by
  unfold State.linkShiftRequest
  split
  · exact st.accounts.refused q _
  · exact ((st.accounts.quiet (onHead_quiet _ s (.inl ⟨rfl, rfl⟩))).replied q _).ite (st.accounts.refused q _)

theorem Standing.supplySetRequest (x y : Byte) : (s.supplySetRequest q x y).Accounts := by
  unfold State.supplySetRequest
  have refused := st.accounts.refused q
  split
  · exact (refused _).ite ((refused _).ite ((refused _).ite ((st.accounts.replied q _).ite
      (st.accounts.quiet (startSupply_quiet _ s _ _)).emitted)))
  · exact refused _

theorem Standing.headAccessRequest (x d r : Byte) (v : Half) : (s.headAccessRequest q x d r v).Accounts := by
  unfold State.headAccessRequest
  have refused := st.accounts.refused q
  split
  · exact (refused _).ite ((refused _).ite (st.accounts.quiet (issueService_quiet _ s _ _)).emitted)
  · exact refused _

theorem Standing.headStandbyRequest (x : Byte) : (s.headStandbyRequest q x).Accounts := by
  unfold State.headStandbyRequest
  have refused := st.accounts.refused q
  split
  · exact refused _
  · exact (refused _).ite ((refused _).ite ((refused _).ite (st.accounts.quiet (issueService_quiet _ s _ _)).emitted))

theorem Standing.headWakeRequest (x : Byte) : (s.headWakeRequest q x).Accounts := by
  unfold State.headWakeRequest
  have refused := st.accounts.refused q
  split
  · exact refused _
  · split
    · exact refused _
    · rename_i standby
      have free := holding_of (Decidable.not_not.mp standby)
      exact (refused _).ite (st.accounts.quiet (startWake_quiet _ _ free)).emitted

theorem Standing.startConfigRequest (b : StartBody) : (s.startConfigRequest q b).Accounts := by
  unfold State.startConfigRequest
  have refused := st.accounts.refused q
  split
  · exact (refused _).ite ((st.accounts.quiet ((onHead_quiet _ s (.inl ⟨rfl, rfl⟩)).trans
      (pauseFilter_quiet _ _))).replied q _)
  · exact refused _

theorem Standing.headEventsRequest (x : Byte) (e : Half) : (s.headEventsRequest q x e).Accounts := by
  unfold State.headEventsRequest
  split
  · exact st.accounts.refused q _
  · exact (st.accounts.refused q _).ite ((st.accounts.quiet (onHead_quiet _ s (.inl ⟨rfl, rfl⟩))).replied q _)

theorem Standing.headStatusRequest (x : Byte) : (s.headStatusRequest q x).Accounts := by
  unfold State.headStatusRequest
  split
  · exact st.accounts.refused q _
  · exact st.accounts.replied q _

theorem Standing.headResetRequest (x : Byte) : (s.headResetRequest q x).Accounts := by
  unfold State.headResetRequest
  split
  · exact st.accounts.refused q _
  · exact (st.accounts.resetHead q _).settled

theorem Standing.runRequestRequest (x y : Byte) : (s.runRequestRequest q x y).Accounts := by
  unfold State.runRequestRequest
  have refused := st.accounts.refused q
  split
  · rename_i h slot _ _
    split
    · exact refused _
    · rename_i idle
      have free := holding_of (Decidable.not_not.mp idle)
      exact (refused _).ite ((st.accounts.join free ((st.poised h).rests free) slot).answered _ _ _ _).settled
  · exact refused _

theorem Standing.runCancelRequest (x : Byte) : (s.runCancelRequest q x).Accounts := by
  unfold State.runCancelRequest
  split
  · exact st.accounts.refused q _
  · split
    · exact st.accounts.refused q _
    · rename_i queued
      exact (st.accounts.withdraw (holding_of (Decidable.not_not.mp queued)) rfl).replied q _

theorem Standing.arbiterSetRequest (x : Byte) : (s.arbiterSetRequest q x).Accounts := by
  unfold State.arbiterSetRequest
  split
  · exact st.accounts.refused q _
  · rename_i b _
    have set_ : s.Quiet (s.onArbiter fun a => { a with enabled := b }) :=
      .of_heads rfl rfl rfl fun _ => .inl (.of_eq rfl fun _ => rfl)
    exact ((st.accounts.quiet set_).answered _ _ _ _).settled

theorem Standing.runAbortRequest : (s.runAbortRequest q).Accounts :=
  (st.accounts.refused q _).ite ((st.accounts.quiet (abortRun_quiet _ s)).replied q _)

theorem Standing.runDropHeadRequest (x : Byte) : (s.runDropHeadRequest q x).Accounts := by
  unfold State.runDropHeadRequest
  split
  · exact st.accounts.refused q _
  · exact (st.accounts.refused q _).ite ((st.accounts.dropHead _ _).answered _ _ _ _).settled

theorem Standing.runSetMaskRequest (x : Byte) : (s.runSetMaskRequest q x).Accounts := by
  unfold State.runSetMaskRequest
  split
  · exact st.accounts.refused q _
  · exact (st.accounts.refused q _).ite ((st.accounts.quiet (onRun_quiet_same s rfl rfl rfl)).replied q _)

theorem Standing.resumeRequest : (s.resumeRequest q).Accounts := by
  unfold State.resumeRequest
  split
  · rename_i held _ returns
    exact ((st.accounts.resumeRun _ held (st.returns _ returns)).answered _ _ _ _).settled
  · exact st.accounts.refused q _

theorem Standing.feedResetRequest : (s.feedResetRequest q).Accounts :=
  (st.accounts.refused q _).ite
    (st.accounts.quiet ((onRun_quiet_same s rfl rfl rfl).trans (sendSource_quiet _ _))).emitted

theorem Standing.watchSetRequest (b : WatchBody) : (s.watchSetRequest q b).Accounts := by
  unfold State.watchSetRequest
  split
  · exact st.accounts.refused q _
  · exact (st.accounts.quiet (onCapture_quiet s _)).replied q _

theorem Standing.watchReadRequest (x : Byte) : (s.watchReadRequest q x).Accounts := by
  unfold State.watchReadRequest
  split
  · exact st.accounts.refused q _
  · exact st.accounts.replied q _

theorem Standing.tableReadRequest (x y : Byte) (n : Half) (m : Byte) : (s.tableReadRequest q x y n m).Accounts := by
  unfold State.tableReadRequest
  split
  · exact (st.accounts.replied q _).ite (st.accounts.refused q _)
  · exact st.accounts.refused q _

theorem Standing.siteResultRequest (x y : Byte) : (s.siteResultRequest q x y).Accounts := by
  unfold State.siteResultRequest
  split
  · exact st.accounts.replied q _
  · exact st.accounts.refused q _

theorem Standing.analyseRequest (x : Byte) (b : Half) (f : Byte) : (s.analyseRequest q x b f).Accounts := by
  unfold State.analyseRequest
  have refused := st.accounts.refused q
  split
  · exact (refused _).ite ((refused _).ite ((refused _).ite (st.accounts.quiet (onAlloc_quiet s _)).served))
  · exact refused _

theorem Standing.binConfigRequest (x y z : Byte) : (s.binConfigRequest q x y z).Accounts := by
  unfold State.binConfigRequest
  split
  · exact (st.accounts.refused q _).ite ((st.accounts.quiet (onBin_quiet _ s _)).replied q _)
  · exact st.accounts.refused q _

theorem Standing.binReleaseRequest (x : Byte) : (s.binReleaseRequest q x).Accounts := by
  unfold State.binReleaseRequest
  split
  · exact st.accounts.refused q _
  · split
    · exact st.accounts.refused q _
    · rename_i waits
      exact ((st.accounts.leaveBinWait (holding_of (Decidable.not_not.mp waits)) _).answered _ _ _ _).reported

theorem Standing.binStatusRequest (x : Byte) : (s.binStatusRequest q x).Accounts := by
  unfold State.binStatusRequest
  split
  · exact st.accounts.refused q _
  · exact st.accounts.replied q _

end

/-! ## Frames and events of a head -/

section
variable {s : State} (st : s.Standing) (h : HeadId)
include st

theorem Standing.serviceReplyFrame (n : Byte) (r : ServiceResult) (v : Half) :
    (s.serviceReplyFrame h n r v).Accounts := by
  unfold State.serviceReplyFrame
  split
  · exact (st.accounts.endService (st.poised h) _ _).settled.ite st.accounts
  · exact st.accounts

theorem Standing.serviceExpiry : (s.serviceExpiry h).Accounts := by
  unfold State.serviceExpiry
  split
  · exact (st.accounts.endService (st.poised h) _ _).settled
  · exact st.accounts

theorem Standing.supplyTripFrame : (s.supplyTripFrame h).Accounts := by
  have tripped := st.accounts.quiet ((setSupply_quiet h s .fault).trans (raiseFlag_quiet h _ HeadFlag.supplyTrip))
  exact ((tripped.dropHead h .supply).ite tripped).settled.ite st.accounts

theorem Standing.headFrame (f : Option HeadInput) : (s.headFrame h f).Accounts := by
  unfold State.headFrame
  split
  · exact st.accounts
  · exact st.accounts.failFrame h _ _ _ _ _
  · exact st.accounts.passTallyFrame h _ _ _
  · exact st.accounts.endTallyFrame h
  · exact st.serviceReplyFrame h _ _ _
  · exact st.supplyTripFrame h

theorem Standing.headFrameDiscard (f : Option HeadInput) (bytes : List Byte) :
    ((s.headFrame h f).awaitAfter h bytes).Accounts :=
  ((st.headFrame h f).quiet (onHead_quiet h _ (.inl ⟨rfl, rfl⟩))).ite (st.headFrame h f)

theorem Standing.startLine (l : LineLevel) : (s.startLine h l).Accounts :=
  st.accounts.ite ((st.accounts.quiet (onLines_quiet h s _)).filterChange (st.poised h).rests l).settled

theorem Standing.candidateExpiry : (s.candidateExpiry h).Accounts := by
  unfold State.candidateExpiry
  split
  · exact (st.accounts.recognise (st.poised h).rests _).settled
  · exact st.accounts

theorem Standing.reseekExpiry : (s.reseekExpiry h).Accounts :=
  (st.accounts.quiet ((setLink_quiet h s _).trans (onHead_quiet h _ (.inl ⟨rfl, rfl⟩)))).reported.ite st.accounts

theorem Standing.staleExpiry : (s.staleExpiry h).Accounts :=
  (st.accounts.quiet ((onBin_quiet h s _).trans (raiseFlag_quiet h _ _))).reported.ite st.accounts

omit h in
theorem Standing.frameSent : s.frameSent.Accounts := by
  unfold State.frameSent
  split
  · exact st.accounts
  · exact (st.accounts.quiet ((onPort_quiet s _).trans ((onWire_same _ _).quiet (by decide)))).emitted

end

/-! ## Every command -/

/-- Every command has a next state, and it keeps the account. -/
theorem Standing.exec (c : Instr) {s : State} (st : s.Standing) : ∃ t, exec c s = .next t ∧ t.Accounts := by
  have a := st.accounts
  have answered : ∀ {t : State} {q : Request} {f : List Byte}, t.Standing → (t.answerOk q f).emit.Accounts :=
    fun u => u.accounts.replied _ _
  have decoded : ∀ {h : HeadId} {t : State}, t.Accounts → (if s.decodes h then t else s).Accounts := fun b => b.ite a
  cases c with
  | powerOnReset => exact ⟨_, rfl, powerOn_accounts s⟩
  | controlFrameReceive bytes => exact ⟨_, rfl, (st.onPort _).accounts.emitted⟩
  | controlByteDiscard byte => exact ⟨_, rfl, (st.onPort _).accounts.emitted⟩
  | requestHandOn => exact ⟨_, rfl, (st.onPort _).accounts⟩
  | frameSent => exact ⟨_, rfl, st.frameSent⟩
  | identify tag => exact ⟨_, rfl, st.request answered⟩
  | status tag => exact ⟨_, rfl, st.request answered⟩
  | configure tag body => exact ⟨_, rfl, st.request fun u => u.configureRequest _ body⟩
  | eventsRead tag body => exact ⟨_, rfl, st.request fun u => u.eventsReadRequest _ body⟩
  | partReset tag => exact ⟨_, rfl, st.request fun _ => partResetRequest_accounts _ _⟩
  | planLoad tag body => exact ⟨_, rfl, st.request fun u => u.planLoadRequest _ body⟩
  | planRead tag slot => exact ⟨_, rfl, st.request fun u => u.planReadRequest _ slot⟩
  | planFree tag slot => exact ⟨_, rfl, st.request fun u => u.planFreeRequest _ slot⟩
  | siteEnable tag head set => exact ⟨_, rfl, st.request fun u => u.siteEnableRequest _ head set⟩
  | headLink tag head e l m => exact ⟨_, rfl, st.request fun u => u.headLinkRequest _ head e l m⟩
  | linkShift tag head => exact ⟨_, rfl, st.request fun u => u.linkShiftRequest _ head⟩
  | supplySet tag head setting => exact ⟨_, rfl, st.request fun u => u.supplySetRequest _ head setting⟩
  | headAccess tag head d r v => exact ⟨_, rfl, st.request fun u => u.headAccessRequest _ head d r v⟩
  | headStandby tag head => exact ⟨_, rfl, st.request fun u => u.headStandbyRequest _ head⟩
  | headWake tag head => exact ⟨_, rfl, st.request fun u => u.headWakeRequest _ head⟩
  | startConfig tag body => exact ⟨_, rfl, st.request fun u => u.startConfigRequest _ body⟩
  | headEvents tag head e => exact ⟨_, rfl, st.request fun u => u.headEventsRequest _ head e⟩
  | headStatus tag head => exact ⟨_, rfl, st.request fun u => u.headStatusRequest _ head⟩
  | headReset tag head => exact ⟨_, rfl, st.request fun u => u.headResetRequest _ head⟩
  | runRequest tag head slot => exact ⟨_, rfl, st.request fun u => u.runRequestRequest _ head slot⟩
  | runCancel tag head => exact ⟨_, rfl, st.request fun u => u.runCancelRequest _ head⟩
  | arbiterSet tag enable => exact ⟨_, rfl, st.request fun u => u.arbiterSetRequest _ enable⟩
  | runAbort tag => exact ⟨_, rfl, st.request fun u => u.runAbortRequest _⟩
  | runDropHead tag head => exact ⟨_, rfl, st.request fun u => u.runDropHeadRequest _ head⟩
  | runSetMask tag masks => exact ⟨_, rfl, st.request fun u => u.runSetMaskRequest _ masks⟩
  | resume tag => exact ⟨_, rfl, st.request fun u => u.resumeRequest _⟩
  | runStatus tag => exact ⟨_, rfl, st.request answered⟩
  | feedReset tag => exact ⟨_, rfl, st.request fun u => u.feedResetRequest _⟩
  | watchSet tag body => exact ⟨_, rfl, st.request fun u => u.watchSetRequest _ body⟩
  | watchRead tag index => exact ⟨_, rfl, st.request fun u => u.watchReadRequest _ index⟩
  | tableRead tag head site n m => exact ⟨_, rfl, st.request fun u => u.tableReadRequest _ head site n m⟩
  | siteResult tag head site => exact ⟨_, rfl, st.request fun u => u.siteResultRequest _ head site⟩
  | analyse tag head budget force => exact ⟨_, rfl, st.request fun u => u.analyseRequest _ head budget force⟩
  | binConfig tag head f x => exact ⟨_, rfl, st.request fun u => u.binConfigRequest _ head f x⟩
  | binRelease tag head => exact ⟨_, rfl, st.request fun u => u.binReleaseRequest _ head⟩
  | binStatus tag head => exact ⟨_, rfl, st.request fun u => u.binStatusRequest _ head⟩
  | accept n => exact ⟨_, rfl, (a.sourceMessage _).emitted⟩
  | decline reason => exact ⟨_, rfl, (a.sourceMessage _).settled⟩
  | acceptTimeout => exact ⟨_, rfl, a.acceptExpiry⟩
  | block payload => exact ⟨_, rfl, (a.sourceMessage _).emitted⟩
  | gateOpen limit => exact ⟨_, rfl, (a.sourceMessage _).emitted⟩
  | gateClose => exact ⟨_, rfl, (a.sourceMessage _).emitted⟩
  | endRecord => exact ⟨_, rfl, (a.sourceMessage _).emitted⟩
  | halted => exact ⟨_, rfl, (a.sourceMessage _).settled⟩
  | resetDone => exact ⟨_, rfl, (a.sourceMessage _).settled⟩
  | feedMessageIllFormed bytes => exact ⟨_, rfl, (a.sourceMessage _).settled⟩
  | haltTimeout => exact ⟨_, rfl, a.haltExpiry⟩
  | feedResetTimeout => exact ⟨_, rfl, a.resetExpiry⟩
  | tallyTimeoutDeciding => exact ⟨_, rfl, a.tallyExpiry _⟩
  | tallyTimeoutDraining => exact ⟨_, rfl, a.tallyExpiry _⟩
  | fail link site bank row column => exact ⟨_, rfl, decoded (a.failFrame _ _ _ _ _ _)⟩
  | passTally head d p m => exact ⟨_, rfl, decoded (a.passTallyFrame head d p m)⟩
  | endTally head => exact ⟨_, rfl, decoded (a.endTallyFrame head)⟩
  | allocatorMove => exact ⟨_, rfl, (a.quiet (engineMove_quiet st.analysed)).served⟩
  | binDelivery head => exact ⟨_, rfl, a.completeFrame (st.frames head)⟩
  | binStaleExpiry head => exact ⟨_, rfl, st.staleExpiry head⟩
  | startLineChange head level => exact ⟨_, rfl, st.startLine head level⟩
  | startCandidateExpiry head => exact ⟨_, rfl, st.candidateExpiry head⟩
  | alignMarkPlaced head => exact ⟨_, rfl, (a.quiet (placedMark_quiet head s)).settled⟩
  | alignMarkMisplaced head position => exact ⟨_, rfl, (a.misplacedMark position).settled⟩
  | signalLoss head => exact ⟨_, rfl, (a.lossOfSignal (h := head)).settled⟩
  | reseekTimerExpiry head => exact ⟨_, rfl, st.reseekExpiry head⟩
  | headFrameDiscard head bytes => exact ⟨_, rfl, decoded (st.headFrameDiscard head _ bytes)⟩
  | serviceReply head n r v => exact ⟨_, rfl, decoded (st.serviceReplyFrame head n r v)⟩
  | serviceTimeout head => exact ⟨_, rfl, st.serviceExpiry head⟩
  | supplyTrip head => exact ⟨_, rfl, decoded (st.supplyTripFrame head)⟩
  | bclkEdge head level => exact ⟨_, rfl, (a.bclkTo (st.frames head) level).reported⟩

/-! ## From the laws and back -/

section
variable {s : State}

/-- The account says the twelfth law. -/
theorem Accounts.planLaws (a : s.Accounts) : PlanLaws s where
  running := a.ledger.running
  queued h queued := (a.ledger.heads h).queued.mp (holding_of queued)
  counted := a.ledger.counted
  loaded := a.ledger.loaded

section
variable (places : PlaceLaws s)
include places

/-- A site at rest whose head enables it is READY, and in no run (R44, R47). -/
theorem rested_site {h : HeadId} {i : SiteId} (rest : (s.site h i).atRest = true) :
    (s.site h i).entry = none ∧ ((s.head h).enableSet.getLsbD i.val = true → (s.site h i).state = .ready) := by
  refine ⟨(places.entered h i).mpr rest, fun on => ?_⟩
  refine (SiteContext.atRest_iff.mp rest).resolve_left fun off => ?_
  exact absurd (on.symm.trans ((places.enabled h i).mp off)) (by decide)

/-- The sites of a head that is neither in the run nor after it rest (R47). -/
theorem rests_of_places {h : HeadId} (run : s.holding h ≠ .run) (after : s.holding h ≠ .sites) : s.Rests h := fun i =>
  rested_site places (places.waiting h i (fun e => run (holding_of e)) (fun e => after (holding_of e))
    fun e => after (holding_of e))

/-- A head of the run has a site in it, or one that is to enter it (R87, R48). -/
theorem staffs_of_places {h : HeadId} (inRun : (s.head h).state = .inRun) : s.Staffs h := by
  obtain ⟨i, on⟩ := exists_site (places.peopled h (.inl inRun))
  refine ⟨i, ?_⟩
  by_cases entry : (s.site h i).entry = none
  · have ready := (rested_site places ((places.entered h i).mp entry)).2 on
    refine .inr ⟨Bool.eq_false_iff.mpr fun active => places.started h i inRun ?_ ?_ ready, ready⟩ <;>
      exact fun state => absurd active (by simp [state, RunState.active])
  · exact .inl entry

end

/-- The laws before a step say the account, and what else the step leans on. -/
theorem Standing.of_laws (run : RunLaws s) (heads : HeadLaws s) (places : PlaceLaws s) (plans : PlanLaws s) :
    s.Standing where
  accounts := {
    ledger := {
      running := plans.running
      entries := heads.entries
      heads := fun h => {
        queued := ⟨fun x => plans.queued h (HeadState.holding_entry.mp x), fun ⟨e, mem, own⟩ =>
          holding_of (own ▸ heads.queued e mem)⟩
        rested := fun x => rests_of_places places (by simp [x]) (by simp [x])
        current := fun x i e entry => (places.current h i e (HeadState.holding_run.mp x) entry).1
        staffed := fun x => staffs_of_places places (HeadState.holding_run.mp x) }
      counted := plans.counted
      loaded := plans.loaded }
    grouped := fun h => HeadState.holding_run.trans (heads.grouped h)
    idle := fun x => (run.resting x).2.2.2 }
  poised h := ⟨fun free => rests_of_places places (by simp [free]) (by simp [free]), fun wake =>
    (heads.wakes h (Option.isSome_iff_ne_none.mpr wake)).1⟩
  returns r x := by rcases run.returns r x with rfl | rfl | rfl <;> rfl
  analysed j mem := holding_of (heads.analysed j mem)
  frames h x := holding_of ((heads.frames h).mp x)

end

end State

/-- Settles O58: the account of plan uses holds before the step by the laws, and every operation keeps it. -/
theorem everyStepKeepsTheUseCounts : Obligations.EveryStepKeepsTheUseCounts := fun s t run heads places plans h => by
  have st := State.Standing.of_laws run heads places plans
  unfold step at h
  split at h
  · obtain rfl := Host.Outcome.next.inj h
    exact st.accounts.takeOldestRaises.planLaws
  · rename_i c rest _
    obtain ⟨u, next, accounts⟩ := (st.withPending rest).exec c
    rw [next] at h
    exact Host.Outcome.next.inj h ▸ accounts.planLaws

end Sys2Proof.Machine
end

section
/-!
The laws that every operation of a step keeps: the bounds of the port, the engine at the oldest job, the bounds of the
run, and the heads as the run, the queue, the jobs and the bin ports know them (O53, O54). Each operation is treated
once, for all of these laws at the same time.
-/

namespace Sys2Proof.Machine

/-! ## A head by itself -/

/-- What one head needs its link for (R146, R147, R149, R151), and when a wake is pending (R154). -/
structure HeadContext.Sound (c : HeadContext) : Prop where
  linked : c.state.onLink = true → c.link = .locked
  offline : c.state = .offline → c.link ≠ .locked
  supplied : c.supply ≠ .off → c.link = .locked
  serviced : c.slot.isSome = true → c.link = .locked
  wakes : c.pendingWake.isSome = true → c.state = .standby ∧ c.slot.isSome = true

namespace HeadContext.Sound

variable {c d : HeadContext}

/-- Soundness reads five fields. -/
theorem congr (a : c.Sound) (state : d.state = c.state) (link : d.link = c.link) (supply : d.supply = c.supply)
    (slot : d.slot = c.slot) (wake : d.pendingWake = c.pendingWake) : d.Sound where
  linked := by rw [state, link]; exact a.linked
  offline := by rw [state, link]; exact a.offline
  supplied := by rw [supply, link]; exact a.supplied
  serviced := by rw [slot, link]; exact a.serviced
  wakes := by rw [wake, state, slot]; exact a.wakes

/-- A head that is not STANDBY has no wake pending. -/
theorem awake (a : c.Sound) (apart : c.state ≠ .standby) : c.pendingWake = none := by
  cases wake : c.pendingWake with
  | none => rfl
  | some mark => exact absurd (a.wakes (by simp [wake])).1 apart

/-- A head without a pending wake may go to another state of the link. -/
theorem withState (a : c.Sound) (x : HeadState) (wake : c.pendingWake = none)
    (linked : x.onLink = true → c.link = .locked) (offline : x = .offline → c.link ≠ .locked) :
    HeadContext.Sound { c with state := x } :=
  ⟨linked, offline, a.supplied, a.serviced, fun some_ => by simp [wake] at some_⟩

/-- The supply changes while the link is LOCKED. -/
theorem withSupply (a : c.Sound) (x : SupplyState) (link : x ≠ .off → c.link = .locked) :
    HeadContext.Sound { c with supply := x } :=
  ⟨a.linked, a.offline, link, a.serviced, a.wakes⟩

end HeadContext.Sound

namespace State

/-! ## The heads as the other blocks know them -/

/-- Head `h` is IN_RUN exactly in the group, QUEUED with a queue entry, ANALYSIS with a job, and BIN_WAIT exactly with a
bin frame. -/
structure InPlace (h : HeadId) (s : State) : Prop where
  grouped : (s.head h).state = .inRun ↔ s.inGroup h = true
  queued : ∀ e ∈ s.arbiter.queue, e.head = h → (s.head h).state = .queued
  analysed : ∀ j ∈ s.alloc.jobs, j.head = h → (s.head h).state = .analysis
  frames : (s.bin h).frame.isSome = true ↔ (s.head h).state = .binWait

/-- The laws of the heads, head by head. -/
structure Posted (s : State) : Prop where
  sound : ∀ h, (s.head h).Sound
  placed : ∀ h, s.InPlace h
  entries : (s.arbiter.queue.map QueueEntry.head).Nodup
  jobs : (s.alloc.jobs.map Job.head).Nodup

theorem posted_iff {s : State} : s.Posted ↔ HeadLaws s where
  mp a :=
    { linked := fun h => (a.sound h).linked
      offline := fun h => (a.sound h).offline
      supplied := fun h => (a.sound h).supplied
      serviced := fun h => (a.sound h).serviced
      wakes := fun h => (a.sound h).wakes
      grouped := fun h => (a.placed h).grouped
      queued := fun e mem => (a.placed e.head).queued e mem rfl
      entries := a.entries
      analysed := fun j mem => (a.placed j.head).analysed j mem rfl
      jobs := a.jobs
      frames := fun h => (a.placed h).frames }
  mpr l :=
    { sound := fun h => ⟨l.linked h, l.offline h, l.supplied h, l.serviced h, l.wakes h⟩
      placed := fun h => ⟨l.grouped h, fun e mem own => own ▸ l.queued e mem, fun j mem own => own ▸ l.analysed j mem,
        l.frames h⟩
      entries := l.entries
      jobs := l.jobs }

section
variable {h : HeadId} {s t : State}

/-- A head keeps its place when nothing that its place is known by changes. -/
theorem InPlace.congr (a : s.InPlace h) (state : (t.head h).state = (s.head h).state)
    (group : t.inGroup h = s.inGroup h) (queue : ∀ e ∈ t.arbiter.queue, e.head = h → e ∈ s.arbiter.queue)
    (jobs : ∀ j ∈ t.alloc.jobs, j.head = h → j ∈ s.alloc.jobs)
    (frame : (t.bin h).frame.isSome = (s.bin h).frame.isSome) : t.InPlace h where
  grouped := by rw [state, group]; exact a.grouped
  queued e mem own := state ▸ a.queued e (queue e mem own) own
  analysed j mem own := state ▸ a.analysed j (jobs j mem own) own
  frames := by rw [frame, state]; exact a.frames

/-- A head that uses no plan is known by no other block. -/
theorem InPlace.free (a : s.InPlace h) (free : s.holding h = .nothing) :
    s.inGroup h = false ∧ (∀ e ∈ s.arbiter.queue, e.head ≠ h) ∧ (∀ j ∈ s.alloc.jobs, j.head ≠ h) ∧
      (s.bin h).frame.isSome = false := by
  have apart (x : HeadState) (used : x.holding ≠ .nothing) : (s.head h).state ≠ x := fun e =>
    used ((congrArg HeadState.holding e).symm.trans free)
  refine ⟨Bool.eq_false_iff.mpr fun x => apart .inRun (by simp [HeadState.holding]) (a.grouped.mpr x),
    fun e mem own => apart .queued (by simp [HeadState.holding]) (a.queued e mem own),
    fun j mem own => apart .analysis (by simp [HeadState.holding]) (a.analysed j mem own),
    Bool.eq_false_iff.mpr fun x => apart .binWait (by simp [HeadState.holding]) (a.frames.mp x)⟩

/-- A head that no other block knows may be in any state in which it uses no plan. -/
theorem InPlace.of_free (free : t.holding h = .nothing) (group : t.inGroup h = false)
    (queue : ∀ e ∈ t.arbiter.queue, e.head ≠ h) (jobs : ∀ j ∈ t.alloc.jobs, j.head ≠ h)
    (frame : (t.bin h).frame.isSome = false) : t.InPlace h where
  grouped := by
    rw [group]
    exact iff_of_false (fun e => by simp [holding_of e, HeadState.holding] at free) (by simp)
  queued e mem own := absurd own (queue e mem)
  analysed j mem own := absurd own (jobs j mem)
  frames := by
    rw [frame]
    exact iff_of_false (by simp) (fun e => by simp [holding_of e, HeadState.holding] at free)

/-- One head changes and the blocks that know it stay; it keeps its state, or uses no plan before and after. -/
theorem Posted.onHead (a : s.Posted) {f : HeadContext → HeadContext} (sound : (f (s.head h)).Sound)
    (state : (f (s.head h)).state = (s.head h).state ∨
      s.holding h = .nothing ∧ (f (s.head h)).state.holding = .nothing) : (s.onHead h f).Posted := by
  have own : (s.onHead h f).head h = f (s.head h) := (onHead_head ..).trans (if_pos rfl)
  have other {k : HeadId} (e : k ≠ h) : (s.onHead h f).head k = s.head k := (onHead_head ..).trans (if_neg e)
  refine ⟨fun k => ?_, fun k => ?_, a.entries, a.jobs⟩ <;> by_cases e : k = h
  · subst e
    exact own ▸ sound
  · exact other e ▸ a.sound k
  · subst e
    rcases state with state | ⟨free, freed⟩
    · exact (a.placed k).congr (own ▸ state) rfl (fun _ mem _ => mem) (fun _ mem _ => mem) rfl
    · obtain ⟨group, queue, jobs, frame⟩ := (a.placed k).free free
      exact .of_free (by rw [holding, own, freed]) group queue jobs frame
  · exact (a.placed k).congr (by rw [other e]) rfl (fun _ mem _ => mem) (fun _ mem _ => mem) rfl

/-- A head changes in fields that its soundness does not read. -/
theorem Posted.onHead_plain (a : s.Posted) {f : HeadContext → HeadContext}
    (state : (f (s.head h)).state = (s.head h).state) (link : (f (s.head h)).link = (s.head h).link)
    (supply : (f (s.head h)).supply = (s.head h).supply) (slot : (f (s.head h)).slot = (s.head h).slot)
    (wake : (f (s.head h)).pendingWake = (s.head h).pendingWake) : (s.onHead h f).Posted :=
  a.onHead ((a.sound h).congr state link supply slot wake) (.inl state)

/-- What changes no block that the laws of the heads read, but that the run keeps its group. -/
theorem Posted.same {m : List Block} (a : s.Posted) (x : SameBut m s t)
    (free : ∀ b ∈ [Block.heads, .arbiter, .alloc, .bins], b ∉ m) (group : t.run.group = s.run.group) : t.Posted := by
  have heads : t.heads = s.heads := x .heads (free _ (by decide))
  have arbiter : t.arbiter = s.arbiter := x .arbiter (free _ (by decide))
  have alloc : t.alloc = s.alloc := x .alloc (free _ (by decide))
  have bins : t.bins = s.bins := x .bins (free _ (by decide))
  have head (h : HeadId) : t.head h = s.head h := congrArg (fun v : Vector HeadContext 4 => v[h]) heads
  refine ⟨fun h => head h ▸ a.sound h, fun h => (a.placed h).congr (by rw [head]) (by rw [inGroup, inGroup, group])
    (fun _ mem _ => arbiter ▸ mem) (fun _ mem _ => alloc ▸ mem) (by rw [bin, bin, bins]), arbiter ▸ a.entries,
    alloc ▸ a.jobs⟩

end

end State

/-! ## The laws -/

/-- The engine serves the oldest job and has used no more than its budget (R66, R73). -/
def Allocator.Serves (a : Allocator) : Prop :=
  ∀ e, a.engine = some e → ∃ job rest, a.jobs = job :: rest ∧ e.used ≤ job.budget.toNat

/-- The laws that every operation of a step keeps; the heads are followed along with the run that they are in. -/
inductive Law where
  | port
  | engine
  | run
  | heads
  deriving DecidableEq

/-- The law holds in a state. -/
def Law.Holds (l : Law) (s : State) : Prop :=
  match l with
  | .port => PortLaws s.port
  | .engine => s.alloc.Serves
  | .run => RunLaws s
  | .heads => RunLaws s ∧ s.Posted

/-- The law speaks of the run. -/
def Law.ofRun (l : Law) : Prop := l = .run ∨ l = .heads

/-- The bounds of the run when Run Controller and Gate Unit stay. -/
theorem RunLaws.of_eq {s t : State} (a : RunLaws s) (run : t.run = s.run) (gates : t.gates = s.gates) : RunLaws t :=
  ⟨run ▸ a.buffer, gates ▸ a.levels, gates ▸ a.phantom, by rw [run, gates]; exact a.resting, run ▸ a.returns⟩

namespace Law.Holds

section
variable {l : Law} {s t : State}

/-- A law that speaks of the run has its bounds. -/
theorem runLaws (a : l.Holds s) (on : l.ofRun) : RunLaws s := by
  rcases on with rfl | rfl
  · exact a
  · exact a.1

theorem posted (a : l.Holds s) (on : l = .heads) : s.Posted := by
  subst on
  exact a.2

/-- The laws under a change of some blocks, law by law. -/
theorem of_laws (a : l.Holds s) (port : PortLaws s.port → PortLaws t.port) (engine : s.alloc.Serves → t.alloc.Serves)
    (run : RunLaws s → RunLaws t) (heads : RunLaws s → s.Posted → t.Posted) : l.Holds t := by
  cases l with
  | port => exact port a
  | engine => exact engine a
  | run => exact run a
  | heads => exact ⟨run a.1, heads a.1 a.2⟩

/-- No block that a law speaks of changes. -/
theorem same {m : List Block} (a : l.Holds s) (x : State.SameBut m s t)
    (free : ∀ b ∈ [Block.port, .alloc, .run, .gates, .heads, .arbiter, .bins], b ∉ m) : l.Holds t := by
  have run : t.run = s.run := x .run (free _ (by decide))
  refine a.of_laws (fun p => (x .port (free _ (by decide)) : t.port = s.port) ▸ p)
    (fun e => (x .alloc (free _ (by decide)) : t.alloc = s.alloc) ▸ e)
    (fun r => r.of_eq run (x .gates (free _ (by decide))))
    fun _ b => b.same x (fun b mem => free b ?_) (by rw [run])
  revert b
  decide

/-- The port changes alone. -/
theorem ofPort {m : List Block} (a : l.Holds s) (x : State.SameBut m s t)
    (free : ∀ b ∈ [Block.alloc, .run, .gates, .heads, .arbiter, .bins], b ∉ m)
    (port : PortLaws s.port → PortLaws t.port) : l.Holds t := by
  have run : t.run = s.run := x .run (free _ (by decide))
  refine a.of_laws port (fun e => (x .alloc (free _ (by decide)) : t.alloc = s.alloc) ▸ e)
    (fun r => r.of_eq run (x .gates (free _ (by decide))))
    fun _ b => b.same x (fun b mem => free b ?_) (by rw [run])
  revert b
  decide

/-- The heads change, with the queue and the bin ports. -/
theorem ofHeads {m : List Block} (a : l.Holds s) (x : State.SameBut m s t)
    (free : ∀ b ∈ [Block.port, .alloc, .run, .gates], b ∉ m) (heads : l = .heads → s.Posted → t.Posted) :
    l.Holds t := by
  have run : t.run = s.run := x .run (free _ (by decide))
  have gates : t.gates = s.gates := x .gates (free _ (by decide))
  cases l with
  | port => exact Eq.subst (motive := PortLaws) (x .port (free _ (by decide)) : t.port = s.port).symm a
  | engine => exact Eq.subst (motive := Allocator.Serves) (x .alloc (free _ (by decide)) : t.alloc = s.alloc).symm a
  | run => exact RunLaws.of_eq a run gates
  | heads => exact ⟨a.1.of_eq run gates, heads rfl a.2⟩

/-- Run Controller and Gate Unit change, but not the group. -/
theorem ofRun {m : List Block} (a : l.Holds s) (x : State.SameBut m s t)
    (free : ∀ b ∈ [Block.port, .alloc, .heads, .arbiter, .bins], b ∉ m) (group : t.run.group = s.run.group)
    (run : RunLaws s → RunLaws t) : l.Holds t := by
  refine a.of_laws (fun p => (x .port (free _ (by decide)) : t.port = s.port) ▸ p)
    (fun e => (x .alloc (free _ (by decide)) : t.alloc = s.alloc) ▸ e) run
    fun _ b => b.same x (fun b mem => free b ?_) group
  revert b
  decide

theorem ite {c : Prop} [Decidable c] (a : l.Holds s) (b : l.Holds t) : l.Holds (if c then s else t) := by
  split <;> assumption

end

end Law.Holds
end Sys2Proof.Machine
end

section
/-!
The port keeps its bounds whatever it receives, answers and sends (R172 to R178).
-/

namespace Sys2Proof.Machine

namespace PortLaws

variable {p r : ControlPort}

/-- A port with the same window, refusals and notices. -/
theorem congr (a : PortLaws p) (window : r.window = p.window) (replies : r.refusals = p.refusals)
    (notices : r.notices = p.notices) : PortLaws r :=
  ⟨window ▸ a.window, window ▸ a.tags, replies ▸ a.refusals, notices ▸ a.notices⟩

/-- The reply of an accepted request is no refusal (R174). -/
theorem answer (a : PortLaws p) (kind tag : Byte) (st : Status) (f : List Byte) :
    PortLaws { p with replies := p.replies ++ [⟨kind, tag, st, f, true⟩] } :=
  a.congr rfl (by simp [ControlPort.refusals]) rfl

/-- A notice joins fewer than 32, or is lost (R178). -/
theorem notice (a : PortLaws p) (n : Notice) :
    PortLaws (if p.notices.length < Config.noticeLimit then
      { p with notices := p.notices ++ [⟨p.overrunPending, n⟩], overrunPending := false }
    else { p.setFlag PartFlag.noticeOverrun with overrunPending := true }) := by
  split
  · rename_i room
    exact ⟨a.window, a.tags, a.refusals, (List.length_append ..).trans_le room⟩
  · exact a.congr rfl rfl rfl

theorem transmit (a : PortLaws p) : PortLaws p.transmit := by
  unfold ControlPort.transmit
  split
  · exact a
  · exact a.congr rfl rfl rfl

/-- A request joins fewer than 8, none of them with its tag (R174). -/
theorem accept (a : PortLaws p) {q : Request} (stage : Stage) (apart : p.holdsTag q.tag = false)
    (room : p.window.length < Config.windowSize) : PortLaws { p with window := p.window ++ [⟨q, stage⟩] } where
  window := (List.length_append ..).trans_le room
  tags := by
    rw [List.map_append, List.nodup_append]
    refine ⟨a.tags, List.nodup_singleton _, fun x mem y own same => ?_⟩
    obtain ⟨e, held, tag⟩ := List.mem_map.mp mem
    have other := List.any_eq_false.mp apart e held
    simp only [List.map_cons, List.map_nil, List.mem_singleton] at own
    exact other (by rw [beq_iff_eq, tag, same, own])
  refusals := a.refusals
  notices := a.notices

/-- A refusal joins fewer than 8 (R174). -/
theorem refuseFrame (a : PortLaws p) (q : Request) (st : Status) : PortLaws (p.refuseFrame q st) := by
  unfold ControlPort.refuseFrame
  split
  · rename_i room
    refine ⟨a.window, a.tags, ?_, a.notices⟩
    rw [ControlPort.refusals, List.filter_append]
    exact (List.length_append ..).trans_le room
  · exact a.congr rfl rfl rfl

theorem arrive (a : PortLaws p) (q : Request) : PortLaws (p.arrive q) := by
  have synced : PortLaws { p with framer := .synced } := a.congr rfl rfl rfl
  unfold ControlPort.arrive ControlPort.entryCheck
  split
  · exact synced.refuseFrame q _
  · split
    · exact synced.congr rfl rfl rfl
    · rename_i apart
      split
      · exact synced.refuseFrame q _
      · rename_i room
        split
        · exact synced.accept _ (Bool.eq_false_iff.mpr apart) (Nat.lt_of_not_le room)
        · exact synced.refuseFrame q _

theorem collect (a : PortLaws p) (got : List Byte) : PortLaws (p.collect got) := by
  have framed (x : Framer) : PortLaws { p with framer := x } := a.congr rfl rfl rfl
  have failed : PortLaws { p.setFlag PartFlag.frameError with framer := .hunt } := a.congr rfl rfl rfl
  unfold ControlPort.collect
  split
  · simp only
    split
    · exact failed
    · split
      · exact framed _
      · split
        · split
          · exact a.arrive _
          · exact failed
        · exact framed _
  · exact framed _

/-- A byte of the host (R172). -/
theorem receive (a : PortLaws p) (b : Byte) : PortLaws (p.receive b) := by
  unfold ControlPort.receive
  split
  · split
    · exact a.congr rfl rfl rfl
    · exact a
  · split
    · exact a.congr rfl rfl rfl
    · exact a.congr rfl rfl rfl
  · exact a.collect _

theorem receiveAll (bytes : List Byte) (a : PortLaws p) : PortLaws (bytes.foldl ControlPort.receive p) := by
  induction bytes generalizing p with
  | nil => exact a
  | cons b rest ih => exact ih (a.receive b)

theorem receiveFrame (a : PortLaws p) (q : Request) : PortLaws (p.receiveFrame q) := by
  unfold ControlPort.receiveFrame
  split
  · exact a.arrive q
  · exact a.receiveAll _

/-- What changes the stages of the requests alone. -/
theorem staged (a : PortLaws p) {w : List WindowEntry}
    (same : w.map WindowEntry.request = p.window.map WindowEntry.request) : PortLaws { p with window := w } := by
  have tags : (w.map fun e => e.request.tag) = p.window.map fun e => e.request.tag := by
    simpa [Function.comp_def] using congrArg (List.map Request.tag) same
  refine ⟨?_, tags ▸ a.tags, a.refusals, a.notices⟩
  simpa using (congrArg List.length same).trans_le (by simpa using a.window)

theorem handOnFirst_request (w : List WindowEntry) :
    (handOnFirst w).map WindowEntry.request = w.map WindowEntry.request := by
  induction w with
  | nil => rfl
  | cons e rest ih =>
    unfold handOnFirst
    split <;> simp [ih]

theorem handOn (a : PortLaws p) : PortLaws p.handOn := by
  unfold ControlPort.handOn
  split
  · exact a
  · exact a.staged (handOnFirst_request _)

/-- The owner takes a request (R175). -/
theorem offer (a : PortLaws p) {q : Request} (taken : p.offer q = some r) : PortLaws r := by
  rcases offer_cases taken with ⟨_, rfl⟩ | ⟨_, accepts, _, rfl⟩
  · refine a.staged ?_
    rw [List.map_map]
    exact List.map_congr_left fun e _ => by simp only [Function.comp]; split <;> rfl
  · have framed : PortLaws { p with framer := .synced } := a.congr rfl rfl rfl
    simp only [ControlPort.accepts, Bool.and_eq_true, Bool.not_eq_true', decide_eq_true_eq] at accepts
    obtain ⟨⟨⟨_, apart⟩, room⟩, _⟩ := accepts
    exact framed.accept .taken apart room

/-- What leaves the window, the reply list or the Notice Queue leaves them within their bounds. -/
theorem sublist (a : PortLaws p) (window : r.window.Sublist p.window) (replies : r.replies.Sublist p.replies)
    (notices : r.notices.Sublist p.notices) : PortLaws r where
  window := window.length_le.trans a.window
  tags := a.tags.sublist (window.map _)
  refusals := ((replies.filter _).length_le).trans a.refusals
  notices := notices.length_le.trans a.notices

/-- The frame that has been sent leaves its list (R175, R177). -/
theorem finish (a : PortLaws p) (x : Sending) : PortLaws (p.finish x) := by
  unfold ControlPort.finish
  simp only
  split
  · split
    · refine a.sublist ?_ (List.tail_sublist _) (List.Sublist.refl _)
      simp only
      split
      · exact List.filter_sublist
      · exact List.Sublist.refl _
    · exact a.sublist (List.Sublist.refl _) (List.Sublist.refl _) (List.tail_sublist _)
  · exact a.congr rfl rfl rfl

/-- PART_RESET discards the requests before its own, the replies and the notices (R183). -/
theorem partReset (a : PortLaws p) (tag : Byte) : PortLaws (p.partReset tag) :=
  a.sublist (List.dropWhile_sublist _) (List.nil_sublist _) (List.nil_sublist _)

end PortLaws
end Sys2Proof.Machine
end

section
/-!
The laws under the operations of a run: its ends, the gate decisions, the drop of a head, the run exceptions and the
grant (R87 to R90, R96, R100 to R102, R109 to R126, R128 to R135).
-/

namespace Sys2Proof.Machine

namespace State

variable {s t : State}

/-! ## Heads after a loop -/

/-- A loop whose body changes its own head alone. -/
theorem forHeads_head {f : HeadId → State → State} {g : HeadContext → HeadContext}
    (body : ∀ h k t, (f h t).head k = if k = h then g (t.head h) else t.head k) (set : HeadSet) (k : HeadId)
    (s : State) : (s.forHeads set f).head k = if set.getLsbD k.val then g (s.head k) else s.head k := by
  obtain ⟨untouched, done⟩ := forHeads_each (s := s) (set := set) (f := f)
    (P := fun t => ∀ k, set.getLsbD k.val = false → t.head k = s.head k)
    (Q := fun h t => set.getLsbD h.val = true ∧ t.head h = s.head h) (R := fun h t => t.head h = g (s.head h))
    (fun h t kept ⟨member, same⟩ => by
      refine ⟨fun k out => ?_, ?_⟩
      · rw [body, if_neg (fun e => Bool.noConfusion (out.symm.trans (e ▸ member)))]
        exact kept k out
      · rw [body, if_pos rfl, same])
    (fun h k t other ⟨member, same⟩ => ⟨member, by rw [body, if_neg other, same]⟩)
    (fun h k t other same => by rw [body, if_neg other, same]) (fun _ _ => rfl) fun _ member => ⟨member, rfl⟩
  split
  · rename_i member
    exact done k member
  · rename_i out
    exact untouched k (Bool.eq_false_iff.mpr out)

theorem endSites_head (g : SiteContext → SiteContext) (h k : HeadId) (t : State) :
    (endSites g h t).head k = if k = h then { t.head h with state := .analysis } else t.head k := onHead_head ..

theorem declineHead_head (slot : Option SlotId) (h k : HeadId) (t : State) : (declineHead slot h t).head k =
    if k = h then HeadContext.raiseFlag HeadFlag.runDeclined { t.head h with state := .idle } else t.head k := by
  have sent (k : HeadId) : (t.sendHead h .runStop).head k = t.head k :=
    congrArg (fun v : Vector HeadContext 4 => v[k]) (sendHead_same h _ t .heads (by decide))
  have used := dropUse_same slot (((t.sendHead h .runStop).setHeadState h .idle).raiseFlag h HeadFlag.runDeclined)
  refine (congrArg (fun v : Vector HeadContext 4 => v[k]) (used .heads (by decide))).trans ?_
  by_cases e : k = h
  · subst e
    refine ((onHead_head ..).trans (if_pos rfl)).trans ?_
    rw [if_pos rfl, setHeadState, onHead_head, if_pos rfl, sent]
  · refine ((onHead_head ..).trans (if_neg e)).trans ?_
    rw [if_neg e, setHeadState, onHead_head, if_neg e, sent]

/-- The run and the gates without one head (R109, R126). -/
def without (h : HeadId) (s : State) : State :=
  (s.onRun fun r => { r with group := r.group &&& ~~~(1#4 <<< h.val), tallied := r.tallied &&& ~~~(1#4 <<< h.val) }).onGates
    fun g => { g with levels := g.levels.map (gateLevelWithout h), collected := upd g.collected h fun _ => none }

section
variable (h k : HeadId) (c : AbortCause) (s : State)

/-- A drop up to the state of its head. -/
theorem removeHead_same_without : SameBut [.sites, .wire] (s.without h)
    (((s.without h).mapSites h fun _ x => x.endAborted c s.runEntry).sendHead h .runStop) :=
  (mapSites_same h _ _).comp (sendHead_same h _ _) (by decide) (by decide)

theorem removeHead_run : (s.removeHead h c).run = (s.without h).run :=
  removeHead_same_without h c s .run (by decide)

theorem removeHead_gates : (s.removeHead h c).gates = (s.without h).gates :=
  removeHead_same_without h c s .gates (by decide)

theorem removeHead_head : (s.removeHead h c).head k =
    if k = h then HeadContext.raiseFlag HeadFlag.dropped { s.head h with state := .analysis } else s.head k := by
  have head (k : HeadId) : _ = s.head k :=
    congrArg (fun v : Vector HeadContext 4 => v[k]) (removeHead_same_without h c s .heads (by decide))
  refine (onHead_head ..).trans ?_
  by_cases e : k = h
  · subst e
    rw [if_pos rfl, if_pos rfl, setHeadState, onHead_head, if_pos rfl]
    exact congrArg (fun c => HeadContext.raiseFlag HeadFlag.dropped { c with state := .analysis }) (head k)
  · rw [if_neg e, if_neg e, setHeadState, onHead_head, if_neg e]
    exact head k

end

/-! ## Jobs of a run end -/

theorem forHeads_addJob (j : HeadId → Job) (set : HeadSet) (s : State) :
    (s.forHeads set fun h => addJob (j h)).alloc =
      { s.alloc with jobs := s.alloc.jobs ++ (allHeads.filter fun h => set.getLsbD h.val).map j } := by
  unfold forHeads
  generalize allHeads = l
  induction l generalizing s with
  | nil => simp
  | cons k rest ih =>
    rw [List.foldl_cons, ih, List.filter_cons]
    split
    · simp [addJob]
    · rfl

/-- The AUTO jobs of a run end stand behind the queue, one for each of some heads of the set (R65). -/
theorem autoJobs_alloc (p : Option Plan) (set : HeadSet) (s : State) : ∃ added : List Job,
    (s.autoJobs p set).alloc = { s.alloc with jobs := s.alloc.jobs ++ added } ∧ (added.map Job.head).Nodup ∧
      ∀ j ∈ added, set.getLsbD j.head.val = true := by
  unfold autoJobs
  have none_ : ∃ added : List Job, s.alloc = { s.alloc with jobs := s.alloc.jobs ++ added } ∧
      (added.map Job.head).Nodup ∧ ∀ j ∈ added, set.getLsbD j.head.val = true := ⟨[], by simp⟩
  split
  · split
    · refine ⟨_, forHeads_addJob _ set s, ?_, ?_⟩
      · rw [List.map_map, show (Job.head ∘ fun h => _) = id from rfl, List.map_id]
        exact List.Nodup.filter _ (by decide)
      · intro j mem
        obtain ⟨h, own, rfl⟩ := List.mem_map.mp mem
        exact (List.mem_filter.mp own).2
    · exact none_
  · exact none_

/-! ## Heads that leave the run -/

/-- A head in the run has no entry, no job and no bin frame. -/
theorem InPlace.inRun {h : HeadId} (a : s.InPlace h) (member : s.inGroup h = true) :
    (∀ e ∈ s.arbiter.queue, e.head ≠ h) ∧ (∀ j ∈ s.alloc.jobs, j.head ≠ h) ∧ (s.bin h).frame.isSome = false := by
  have state := a.grouped.mpr member
  refine ⟨fun e mem own => ?_, fun j mem own => ?_, Bool.eq_false_iff.mpr fun x => ?_⟩
  · exact absurd (state.symm.trans (a.queued e mem own)) (by simp)
  · exact absurd (state.symm.trans (a.analysed j mem own)) (by simp)
  · exact absurd (state.symm.trans (a.frames.mp x)) (by simp)

/-- Some heads of the group leave it for IDLE or for ANALYSIS, where they may have a job (R96, R100, R102, R109). -/
theorem InPlace.leave {set : HeadId → Bool} {x : HeadState} {added : List Job} (a : ∀ h, s.InPlace h)
    (rest : x = .idle ∨ x = .analysis) (inRun : ∀ h, set h = true → s.inGroup h = true)
    (left : ∀ h, set h = true → (t.head h).state = x) (stay : ∀ h, set h = false → (t.head h).state = (s.head h).state)
    (group : ∀ h, t.inGroup h = (s.inGroup h && !set h)) (queue : t.arbiter.queue = s.arbiter.queue)
    (bins : t.bins = s.bins) (jobs : t.alloc.jobs = s.alloc.jobs ++ added)
    (fresh : ∀ j ∈ added, set j.head = true ∧ x = .analysis) (h : HeadId) : t.InPlace h := by
  have bin : t.bin h = s.bin h := congrArg (fun v : Vector BinPort 4 => v[h]) bins
  cases e : set h with
  | false =>
    refine (a h).congr (stay h e) (by rw [group, e]; simp) (fun _ mem _ => queue ▸ mem) ?_ (by rw [bin])
    rw [jobs]
    rintro j mem own
    rcases List.mem_append.mp mem with mem | mem
    · exact mem
    · exact absurd (fresh j mem).1 (by simp [own, e])
  | true =>
    obtain ⟨unqueued, jobless, unframed⟩ := (a h).inRun (inRun h e)
    have state := left h e
    have apart : x ≠ .inRun ∧ x ≠ .binWait := by rcases rest with rfl | rfl <;> exact ⟨by simp, by simp⟩
    refine ⟨?_, fun e mem own => absurd own (unqueued e (queue ▸ mem)), fun j mem own => ?_, ?_⟩
    · rw [state, group, e]
      exact iff_of_false apart.1 (by simp)
    · rw [jobs] at mem
      rcases List.mem_append.mp mem with mem | mem
      · exact absurd own (jobless j mem)
      · exact state.trans (fresh j mem).2
    · rw [state, bin, unframed]
      exact iff_of_false (by simp) apart.2

/-- The same, with the soundness of the heads that leave. -/
theorem Posted.leave {set : HeadId → Bool} {x : HeadState} {added : List Job} (a : s.Posted)
    (rest : x = .idle ∨ x = .analysis) (inRun : ∀ h, set h = true → s.inGroup h = true)
    (left : ∀ h, set h = true → ∃ flags raised, t.head h = { s.head h with state := x, flags, raised })
    (stay : ∀ h, set h = false → t.head h = s.head h) (group : ∀ h, t.inGroup h = (s.inGroup h && !set h))
    (queue : t.arbiter.queue = s.arbiter.queue) (bins : t.bins = s.bins)
    (jobs : t.alloc.jobs = s.alloc.jobs ++ added) (fresh : ∀ j ∈ added, set j.head = true ∧ x = .analysis)
    (once : (added.map Job.head).Nodup) : t.Posted := by
  refine ⟨fun h => ?_, InPlace.leave a.placed rest inRun (fun h e => ?_) (fun h e => by rw [stay h e]) group queue bins
    jobs fresh, queue ▸ a.entries, ?_⟩
  · cases e : set h with
    | false => exact stay h e ▸ a.sound h
    | true =>
      have state := (a.placed h).grouped.mpr (inRun h e)
      have link := (a.sound h).linked (by simp [state, HeadState.onLink])
      obtain ⟨_, _, same⟩ := left h e
      have sound := (a.sound h).withState x ((a.sound h).awake (by simp [state])) (fun _ => link)
        (fun off => by rcases rest with rfl | rfl <;> cases off)
      exact same ▸ sound.congr rfl rfl rfl rfl rfl
  · obtain ⟨_, _, same⟩ := left h e
    rw [same]
  · rw [jobs, List.map_append, List.nodup_append]
    refine ⟨a.jobs, once, fun h mem k new same => ?_⟩
    subst same
    obtain ⟨j, old, own⟩ := List.mem_map.mp mem
    obtain ⟨i, newer, rfl⟩ := List.mem_map.mp new
    exact ((a.placed i.head).inRun (inRun _ (fresh i newer).1)).2.1 j old own

/-- The heads of the group become IN_RUN (R89). -/
theorem grantTo_head (w : QueueEntry) (plan : Plan) (k : HeadId) (s : State) : (s.grantTo w plan).head k =
    if (s.groupOf w plan).getLsbD k.val then { s.head k with state := .inRun } else s.head k := by
  unfold State.grantTo
  exact forHeads_head (f := grantHead _) (g := fun c => { c with state := .inRun }) (grantHead_head _) _ k _

end State

/-! ## The run by itself -/

/-- The bounds of the run hold without one of its heads. -/
theorem RunLaws.removeHead {s : State} {h : HeadId} (b : RunLaws s) (c : AbortCause) : RunLaws (s.removeHead h c) := by
  have without : RunLaws (s.without h) := by
    refine ⟨b.buffer, (List.length_map _).trans_le b.levels, b.phantom, fun none_ => ?_, b.returns⟩
    obtain ⟨buffer, levels, phantom, group⟩ := b.resting none_
    refine ⟨buffer, ?_, phantom, ?_⟩
    · show s.gates.levels.map _ = []
      rw [levels]
      rfl
    · show s.run.group &&& _ = 0
      rw [group]
      exact BitVec.zero_and
  exact without.of_eq (State.removeHead_run h c s) (State.removeHead_gates h c s)

/-- A run end leaves the bounds of the run (R91, R111). -/
theorem RunLaws.cleared (s : State) : RunLaws s.clearRun :=
  ⟨Nat.zero_le _, Nat.zero_le _, Nat.zero_le _, fun _ => ⟨rfl, rfl, rfl, rfl⟩, fun _ x => by cases x⟩

namespace Law.Holds

open State

variable {l : Law} {s t : State}

/-- The run changes but keeps its group; its buffer stays or is emptied, and a new return state is one of R135. -/
theorem onRun (a : l.Holds s) {f : RunController → RunController}
    (buffer : (f s.run).buffer = s.run.buffer ∨ (f s.run).buffer = []) (group : (f s.run).group = s.run.group)
    (idle : l.ofRun → (f s.run).state = .none → s.run.state = .none)
    (returns : ∀ r, (f s.run).returnState = some r →
      s.run.returnState = some r ∨ r = .streaming ∨ r = .deciding ∨ r = .draining) : l.Holds (s.onRun f) := by
  have bounds (on : l.ofRun) (b : RunLaws s) : RunLaws (s.onRun f) := by
    refine ⟨?_, b.levels, b.phantom, fun none_ => ?_, fun r x => (returns r x).elim (b.returns r) id⟩
    · rcases buffer with same | empty
      · exact (congrArg List.length same).trans_le b.buffer
      · exact (congrArg List.length empty).trans_le (Nat.zero_le _)
    · obtain ⟨empty, levels, phantom, members⟩ := b.resting (idle on none_)
      exact ⟨buffer.elim (fun same => same.trans empty) id, levels, phantom, group.trans members⟩
  cases l with
  | port => exact a
  | engine => exact a
  | run => exact bounds (.inl rfl) a
  | heads => exact ⟨bounds (.inr rfl) a.1, a.2.same (onRun_same f s) (by decide) group⟩

/-- The buffer is set while a run is on. -/
theorem withBuffer (a : l.Holds s) {b : List FeedRecord} (running : l.ofRun → s.run.state ≠ .none)
    (room : l.ofRun → b.length ≤ 16) : l.Holds (s.onRun fun c => { c with buffer := b }) := by
  have bounds (on : l.ofRun) (r : RunLaws s) : RunLaws (s.onRun fun c => { c with buffer := b }) :=
    ⟨room on, r.levels, r.phantom, fun none_ => absurd none_ (running on), r.returns⟩
  cases l with
  | port => exact a
  | engine => exact a
  | run => exact bounds (.inl rfl) a
  | heads => exact ⟨bounds (.inr rfl) a.1, a.2.same (onRun_same _ s) (by decide) rfl⟩

/-- The Gate Unit gets no more levels and no deeper. -/
theorem onGates (a : l.Holds s) {f : GateUnit → GateUnit} (levels : (f s.gates).levels.length ≤ s.gates.levels.length)
    (phantom : (f s.gates).phantom ≤ s.gates.phantom) : l.Holds (s.onGates f) := by
  refine a.ofRun (onGates_same f s) (by decide) rfl fun b =>
    ⟨b.buffer, levels.trans b.levels, phantom.trans b.phantom, fun none_ => ?_, b.returns⟩
  obtain ⟨empty, none_, zero, members⟩ := b.resting none_
  exact ⟨empty, List.length_eq_zero_iff.mp (Nat.le_zero.mp (levels.trans_eq (by rw [none_]; rfl))),
    Nat.le_zero.mp (phantom.trans_eq zero), members⟩

/-- The Gate Unit stays within its bounds while a run is on. -/
theorem onGates_running (a : l.Holds s) {f : GateUnit → GateUnit} (running : l.ofRun → s.run.state ≠ .none)
    (levels : s.gates.levels.length ≤ 4 → (f s.gates).levels.length ≤ 4)
    (phantom : s.gates.phantom ≤ 65535 → (f s.gates).phantom ≤ 65535) : l.Holds (s.onGates f) := by
  have bounds (on : l.ofRun) (b : RunLaws s) : RunLaws (s.onGates f) :=
    ⟨b.buffer, levels b.levels, phantom b.phantom, fun none_ => absurd none_ (running on), b.returns⟩
  cases l with
  | port => exact a
  | engine => exact a
  | run => exact bounds (.inl rfl) a
  | heads => exact ⟨bounds (.inr rfl) a.1, a.2.same (onGates_same f s) (by decide) rfl⟩

theorem answer (a : l.Holds s) (k g : Byte) (st : Status) (f : List Byte) : l.Holds (s.answer k g st f) :=
  a.ofPort (answer_same k g st f s) (by decide) fun p => p.answer k g st f

theorem queueNotice (a : l.Holds s) (n : Notice) : l.Holds (s.queueNotice n) :=
  a.ofPort (queueNotice_same n s) (by decide) fun p => p.notice n

theorem runNotice (a : l.Holds s) (n : Notice) : l.Holds (s.runNotice n) := (a.queueNotice n).ite a

theorem emit (a : l.Holds s) : l.Holds s.emit := a.ofPort (emit_same s) (by decide) fun p => p.transmit

theorem setPartFlag (a : l.Holds s) (x : BitVec 4) : l.Holds (s.setPartFlag x) :=
  a.ofPort (setPartFlag_same x s) (by decide) fun p => p.congr rfl rfl rfl

theorem sendSource (a : l.Holds s) (m : SourceMessage) : l.Holds (s.sendSource m) :=
  a.same (sendSource_same m s) (by decide)

theorem sendHead (a : l.Holds s) (h : HeadId) (f : HeadFrame) : l.Holds (s.sendHead h f) :=
  a.same (sendHead_same h f s) (by decide)

/-- A head changes in fields that its soundness does not read. -/
theorem onHead_plain (a : l.Holds s) {h : HeadId} {f : HeadContext → HeadContext}
    (state : (f (s.head h)).state = (s.head h).state) (link : (f (s.head h)).link = (s.head h).link)
    (supply : (f (s.head h)).supply = (s.head h).supply) (slot : (f (s.head h)).slot = (s.head h).slot)
    (wake : (f (s.head h)).pendingWake = (s.head h).pendingWake) : l.Holds (s.onHead h f) :=
  a.ofHeads (onHead_same h f s) (by decide) fun _ p => p.onHead_plain state link supply slot wake

theorem raiseFlag (a : l.Holds s) (h : HeadId) (x : BitVec 10) : l.Holds (s.raiseFlag h x) :=
  a.onHead_plain rfl rfl rfl rfl rfl

/-- A loop over heads. -/
theorem forHeads {f : HeadId → State → State} (body : ∀ h t, l.Holds t → l.Holds (f h t)) (set : HeadSet)
    (a : l.Holds s) : l.Holds (s.forHeads set f) := forHeads_keeps (P := l.Holds) body set a

/-! ## The end of a step -/

theorem flushHead (a : l.Holds s) (h : HeadId) : l.Holds (s.flushHead h) := by
  have cleared : l.Holds (s.onHead h fun c => { c with raised := 0 }) := a.onHead_plain rfl rfl rfl rfl rfl
  exact cleared.ite (cleared.queueNotice _)

theorem flushEvents (a : l.Holds s) : l.Holds s.flushEvents := by
  unfold State.flushEvents
  generalize allHeads = heads
  induction heads generalizing s with
  | nil => exact a
  | cons h rest ih => exact ih (a.flushHead h)

theorem report (a : l.Holds s) : l.Holds s.report := a.flushEvents.emit

/-- The idle engine takes the oldest job with no step used (R66). -/
theorem startEngine (a : l.Holds s) : l.Holds s.startEngine := by
  refine a.of_laws id (fun serves => ?_) (fun r => r.of_eq rfl rfl) fun _ p => ?_
  · unfold State.startEngine
    intro e own
    simp only [onAlloc_alloc] at own ⊢
    split at own
    · rename_i job rest _ jobs
      obtain rfl := Option.some.inj own
      exact ⟨job, rest, jobs, Nat.zero_le _⟩
    · exact serves e own
  · have jobs : s.startEngine.alloc.jobs = s.alloc.jobs := by
      unfold State.startEngine
      simp only [onAlloc_alloc]
      split <;> rfl
    exact ⟨p.sound, fun h => (p.placed h).congr rfl rfl (fun _ mem _ => mem) (fun _ mem _ => jobs ▸ mem) rfl, p.entries,
      jobs ▸ p.jobs⟩

theorem serve (a : l.Holds s) : l.Holds s.serve := a.startEngine.emit

/-! ## Run ends -/

/-- The heads of the group end the run with their sites, and those under auto-analyse get a job (R100, R102). -/
theorem endsRun (a : l.Holds s) (g : SiteContext → SiteContext) (plan : Option Plan) (n : Notice) :
    l.Holds ((((s.forHeads s.run.group (State.endSites g)).autoJobs plan s.run.group).runNotice n).clearRun) := by
  have ended : SameBut [.sites, .heads] s (s.forHeads s.run.group (State.endSites g)) :=
    forHeads_same (fun h t => (mapSites_same h _ t).comp (setHeadState_same h _ _) (by decide) (by decide)) _ _
  have queued := autoJobs_same plan s.run.group (s.forHeads s.run.group (State.endSites g))
  have noticed := runNotice_same n ((s.forHeads s.run.group (State.endSites g)).autoJobs plan s.run.group)
  have cleared := clearRun_same (((s.forHeads s.run.group (State.endSites g)).autoJobs plan s.run.group).runNotice n)
  obtain ⟨added, alloc, once, members⟩ := autoJobs_alloc plan s.run.group (s.forHeads s.run.group (State.endSites g))
  rw [(ended .alloc (by decide) : _ = s.alloc)] at alloc
  have jobs := ((cleared .alloc (by decide)).trans (noticed .alloc (by decide))).trans alloc
  refine a.of_laws (fun p => ?_) (fun serves => ?_) (fun _ => .cleared _) fun _ p => ?_
  · have before : Law.port.Holds (s.forHeads s.run.group (State.endSites g)) :=
      Eq.subst (motive := PortLaws) (ended .port (by decide) : _ = s.port).symm p
    have same : PortLaws ((s.forHeads s.run.group (State.endSites g)).autoJobs plan s.run.group).port :=
      Eq.subst (motive := PortLaws) (queued .port (by decide) : _ = _).symm before
    exact Law.Holds.runNotice (l := .port) same n
  · intro e own
    rw [jobs] at own ⊢
    obtain ⟨job, rest, first, within⟩ := serves e own
    exact ⟨job, rest ++ added, by rw [first]; rfl, within⟩
  · have head (h : HeadId) := (congrArg (fun v : Vector HeadContext 4 => v[h])
      ((cleared .heads (by decide)).trans ((noticed .heads (by decide)).trans (queued .heads (by decide))))).trans
        (forHeads_head (g := fun c => { c with state := .analysis }) (endSites_head g) s.run.group h s)
    refine p.leave (set := s.inGroup) (.inr rfl) (fun _ member => member) (fun h member => ?_)
      (fun h out => ?_) (fun h => ?_) ?_ ?_ (congrArg Allocator.jobs jobs) (fun j mem => ⟨members j mem, rfl⟩) once
    · exact ⟨_, _, (head h).trans (if_pos member)⟩
    · exact (head h).trans (if_neg (Bool.eq_false_iff.mp out))
    · rw [Bool.and_not_self]
      exact BitVec.getLsbD_zero
    · exact congrArg Arbiter.queue ((cleared .arbiter (by decide)).trans ((noticed .arbiter (by decide)).trans
        ((queued .arbiter (by decide)).trans (ended .arbiter (by decide)))))
    · exact (cleared .bins (by decide)).trans ((noticed .bins (by decide)).trans
        ((queued .bins (by decide)).trans (ended .bins (by decide))))

theorem normalEnd (a : l.Holds s) : l.Holds s.normalEnd := a.endsRun _ _ _

theorem abortedEnd (a : l.Holds s) : l.Holds s.abortedEnd := a.endsRun _ _ _

/-- A run that ends without starting leaves its heads IDLE (R96). -/
theorem endWithoutStart (a : l.Holds s) (w : StartFailure) : l.Holds (s.endWithoutStart w) := by
  have declined : SameBut [.wire, .heads, .store] s (s.forHeads s.run.group (declineHead s.run.slot)) :=
    forHeads_same (fun h t => declineHead_same _ h t) _ _
  have head (h : HeadId) := forHeads_head
    (g := fun c => HeadContext.raiseFlag HeadFlag.runDeclined { c with state := .idle })
    (declineHead_head s.run.slot) s.run.group h s
  refine a.of_laws (fun p => ?_) (fun e => ?_) (fun _ => .cleared _) fun _ p => ?_
  · exact Eq.subst (motive := PortLaws) (declined .port (by decide) : _ = s.port).symm p
  · exact Eq.subst (motive := Allocator.Serves) (declined .alloc (by decide) : _ = s.alloc).symm e
  · refine p.leave (set := s.inGroup) (x := .idle) (added := []) (.inl rfl) (fun _ member => member)
      (fun h member => ?_) (fun h out => ?_) (fun h => ?_) ?_ (declined .bins (by decide)) ?_ (by simp) (by simp)
    · exact ⟨_, _, (head h).trans (if_pos member)⟩
    · exact (head h).trans (if_neg (Bool.eq_false_iff.mp out))
    · rw [Bool.and_not_self]
      exact BitVec.getLsbD_zero
    · exact congrArg Arbiter.queue (declined .arbiter (by decide))
    · exact (congrArg Allocator.jobs (declined .alloc (by decide))).trans (List.append_nil _).symm

/-- The abort begins (R101). -/
theorem abortRun (a : l.Holds s) (c : RunAbort) : l.Holds (s.abortRun c) := by
  refine a.ofRun (abortRun_same c s) (by decide) (abortRun_quiet c s).group fun b => ?_
  unfold State.abortRun
  split
  · exact b
  · have sent : SameBut [.wire] s ((s.sendSource .halt).forHeads s.run.group fun h => State.sendHead h .runStop) :=
      (sendSource_same _ s).comp (forHeads_same (fun h t => sendHead_same h _ t) _ _) (by decide) (by decide)
    have gates := sent .gates (by decide)
    exact ⟨Nat.zero_le _, (congrArg (fun g : GateUnit => g.levels.length) gates).trans_le b.levels,
      (congrArg GateUnit.phantom gates).trans_le b.phantom, fun x => absurd x (by simp), fun _ x =>
      absurd x (by simp)⟩

theorem feedFault (a : l.Holds s) (f : RunFault) : l.Holds (s.feedFault f) :=
  ((a.onRun (f := RunController.setException f.bit) (.inl rfl) rfl (fun _ => id) fun _ => .inl).setPartFlag _).abortRun _

/-! ## Gates -/

theorem exitLevel (a : l.Holds s) {lvl : GateLevel} {below : List GateLevel}
    (fewer : below.length ≤ s.gates.levels.length) : l.Holds (s.exitLevel lvl below) := by
  have unparked : SameBut [.sites, .wire] s
      (s.forHeads s.run.group fun h => unparkSites (below.length + 1) lvl.parked[h] h) :=
    forHeads_same (fun h t => unparkSites_same _ _ h t) _ _
  have gates : _ = s.gates := unparked .gates (by decide)
  exact ((a.same unparked (by decide)).onGates (gates ▸ fewer) (by rw [gates])).sendSource _

theorem repeatLevel (a : l.Holds s) {lvl : GateLevel} {below : List GateLevel}
    (fewer : below.length + 1 ≤ s.gates.levels.length) : l.Holds (s.repeatLevel lvl below) :=
  (a.onGates (f := fun g => { g with levels := lvl :: below }) fewer (Nat.le_refl _)).sendSource _

theorem decideLevel (a : l.Holds s) {lvl : GateLevel} {below : List GateLevel}
    (fewer : below.length + 1 ≤ s.gates.levels.length) : l.Holds (s.decideLevel lvl below) := by
  have expired (policy : Expiry) : SameBut [.sites, .wire] s (s.forHeads s.run.group fun h =>
      expireSites policy (below.length + 1) (s.remainingSites lvl h) h) :=
    forHeads_same (fun h t => expireSites_same _ _ _ h t) _ _
  have gates (policy : Expiry) : _ = s.gates := expired policy .gates (by decide)
  unfold State.decideLevel
  exact (a.exitLevel (Nat.le_of_succ_le fewer)).ite (((a.same (expired _) (by decide)).exitLevel
    (gates _ ▸ Nat.le_of_succ_le fewer)).ite (a.repeatLevel fewer))

/-- A gate decision, after which the run streams (R120). -/
theorem makeDecision (a : l.Holds s) : l.Holds s.makeDecision := by
  unfold State.makeDecision
  split
  · exact a
  · rename_i lvl below levels
    have parked : SameBut [.sites, .wire] s (s.forHeads s.run.group fun h =>
        parkSites (below.length + 1) (lvl.passCount + 1) (s.matchedSites lvl h) h) :=
      forHeads_same (fun h t => parkSites_same _ _ _ h t) _ _
    have gates : _ = s.gates := parked .gates (by decide)
    have decided := (a.same parked (by decide)).decideLevel (lvl := s.parkedLevel lvl) (below := below)
      (by rw [gates, levels]; rfl)
    exact (decided.onRun (.inl rfl) rfl (fun _ x => by cases x) fun _ => .inl).onGates (Nat.le_refl _) (Nat.le_refl _)

/-! ## Drops -/

/-- A head of the group leaves it for ANALYSIS (R109). -/
theorem removeHead (a : l.Holds s) {h : HeadId} (member : s.inGroup h = true) (c : AbortCause) :
    l.Holds (s.removeHead h c) := by
  have x := removeHead_same h c s
  refine a.of_laws (fun p => ?_) (fun e => ?_) (fun b => ?_) fun b p => ?_
  · exact Eq.subst (motive := PortLaws) (x .port (by decide) : _ = s.port).symm p
  · exact Eq.subst (motive := Allocator.Serves) (x .alloc (by decide) : _ = s.alloc).symm e
  · exact b.removeHead c
  · have head (k : HeadId) := removeHead_head h k c s
    refine p.leave (set := fun k => decide (k = h)) (x := .analysis) (added := []) (.inr rfl) (fun k own => ?_)
      (fun k own => ?_) (fun k other => ?_) (fun k => ?_) (congrArg Arbiter.queue (x .arbiter (by decide)))
      (x .bins (by decide)) ?_ (by simp) (by simp)
    · exact of_decide_eq_true own ▸ member
    · obtain rfl := of_decide_eq_true own
      exact ⟨_, _, (head k).trans (if_pos rfl)⟩
    · exact (head k).trans (if_neg (of_decide_eq_false other))
    · refine (congrArg (fun r : RunController => r.group.getLsbD k.val) (removeHead_run h c s)).trans
        ((getLsbD_without ..).trans ?_)
      simp [inGroup]
    · exact (congrArg Allocator.jobs (x .alloc (by decide))).trans (List.append_nil _).symm

theorem afterDrop (a : l.Holds s) : l.Holds s.afterDrop := by
  unfold State.afterDrop
  refine (a.abortRun _).ite ?_
  split
  · exact a.makeDecision.ite a
  · exact a.normalEnd.ite a
  · exact a

theorem dropHead (a : l.Holds s) (h : HeadId) (c : AbortCause) : l.Holds (s.dropHead h c) := by
  unfold State.dropHead
  split
  · rename_i member
    exact (a.removeHead member c).afterDrop
  · exact a

/-! ## Run exceptions -/

theorem onSite (a : l.Holds s) (h : HeadId) (i : SiteId) (f : SiteContext → SiteContext) : l.Holds (s.onSite h i f) :=
  a.same (onSite_same h i f s) (by decide)

theorem applyDefault (a : l.Holds s) (r : Raise) (running : l.ofRun → s.run.state ≠ .none) :
    l.Holds (s.applyDefault r) := by
  have lost : l.Holds (match r.head, r.site with
      | some h, some i => s.onSite h i (SiteContext.orderCaptureLost s.run.runNumber)
      | _, _ => s) := by
    split
    · exact a.onSite _ _ _
    · exact a
  unfold State.applyDefault
  split
  · refine a.onGates_running running id fun _ => ?_
    show satInc 65535 s.gates.phantom ≤ 65535
    unfold satInc
    split <;> omega
  · exact a.sendSource _
  · exact lost
  · exact lost
  · exact a
  · exact a
  · exact a.forHeads (fun h t b => b.dropHead h .tally) _

theorem setException (a : l.Holds s) (bit : Nat) : l.Holds (s.onRun (RunController.setException bit)) :=
  a.onRun (.inl rfl) rfl (fun _ => id) fun _ => .inl

/-- A hold of a run under way returns to its state (R134, R135). -/
theorem holdRun (a : l.Holds s) (r : Raise)
    (state : s.run.state = .streaming ∨ s.run.state = .deciding ∨ s.run.state = .draining) : l.Holds (s.holdRun r) := by
  have sent (c : Bool) : SameBut [.wire] s (if c then s.sendSource .pause else s) :=
    (sendSource_same _ s).ite (SameBut.refl _ s)
  have run (c : Bool) : (if c then s.sendSource .pause else s).run = s.run := sent c .run (by decide)
  unfold State.holdRun
  refine ((a.same (sent _) (by decide)).onRun (.inl rfl) rfl (fun _ x => by cases x) fun x own => .inr ?_).runNotice _
  obtain rfl := Option.some.inj own
  rw [run]
  exact state

theorem setMore (a : l.Holds s) : l.Holds s.setMore := a.onRun (.inl rfl) rfl (fun _ => id) fun _ => .inl

theorem raiseException (a : l.Holds s) (r : Raise) : l.Holds (s.raiseException r) := by
  have flagged := a.setException r.cause.bit
  have active (state : s.run.state = .streaming ∨ s.run.state = .deciding ∨ s.run.state = .draining) :
      l.Holds (if s.run.masked r.cause then (s.onRun (RunController.setException r.cause.bit)).applyDefault r
        else (s.onRun (RunController.setException r.cause.bit)).holdRun r) :=
    (flagged.applyDefault r fun _ none_ => by
      rw [show s.run.state = .none from none_] at state
      simp at state).ite (flagged.holdRun r state)
  unfold State.raiseException
  cases state : s.run.state with
  | none => exact a
  | starting => exact a
  | held => exact flagged.setMore.applyDefault r fun _ x => absurd (state.symm.trans x) (by simp)
  | halting => exact flagged.applyDefault r fun _ x => absurd (state.symm.trans x) (by simp)
  | streaming => exact active (.inl state)
  | deciding => exact active (.inr (.inl state))
  | draining => exact active (.inr (.inr state))

theorem takeEach (a : l.Holds s) (rs : List HandedRaise) : l.Holds (s.takeEach rs) := by
  induction rs generalizing s with
  | nil => exact a
  | cons r rest ih => exact ih (a.ite (a.raiseException r.raise))

theorem takeRaises (a : l.Holds s) : l.Holds s.takeRaises := (a.same (onCapture_same _ s) (by decide)).takeEach _

/-! ## The grant -/

/-- The heads of the entries that join leave the queue for the run (R89). -/
theorem posted_grantTo (p : s.Posted) (r : RunLaws s) (idle : s.run.state = .none) (w : QueueEntry) (plan : Plan) :
    (s.grantTo w plan).Posted := by
  have x := grantTo_same w plan s
  have g := grantTo_granted w plan s
  have head (k : HeadId) := grantTo_head w plan k s
  have away (k : HeadId) : s.inGroup k = false := by simp [inGroup, (r.resting idle).2.2.2]
  refine ⟨fun k => ?_, fun k => ?_, ?_, (x .alloc (by decide) : _ = s.alloc) ▸ p.jobs⟩
  · rw [head]
    split
    · rename_i member
      obtain ⟨e, mem, own, _⟩ := groupOf_iff.mp member
      have queued := (p.placed k).queued e mem own
      exact (p.sound k).withState .inRun ((p.sound k).awake (by simp [queued]))
        (fun _ => (p.sound k).linked (by simp [queued, HeadState.onLink])) (fun off => by cases off)
    · exact p.sound k
  · have bin : (s.grantTo w plan).bin k = s.bin k := congrArg (fun v : Vector BinPort 4 => v[k]) (x .bins (by decide))
    have jobs : (s.grantTo w plan).alloc.jobs = s.alloc.jobs := congrArg Allocator.jobs (x .alloc (by decide))
    have state := congrArg HeadContext.state (head k)
    have group : (s.grantTo w plan).inGroup k = (s.groupOf w plan).getLsbD k.val := by rw [inGroup, g.group]
    split at state
    · rename_i member
      obtain ⟨e, mem, own, joins⟩ := groupOf_iff.mp member
      have queued := (p.placed k).queued e mem own
      refine ⟨iff_of_true state (group.trans member), fun d left same => ?_, fun j mem same => ?_, ?_⟩
      · rw [g.queue, List.mem_filter] at left
        rw [List.inj_on_of_nodup_map p.entries left.1 mem (same.trans own.symm), joins] at left
        exact absurd left.2 (by simp)
      · exact absurd (queued.symm.trans ((p.placed k).analysed j (jobs ▸ mem) same)) (by simp)
      · rw [bin, (p.placed k).frames, queued, state]
        simp
    · rename_i out
      refine (p.placed k).congr state ?_ (fun d left _ => ?_) (fun j mem _ => jobs ▸ mem) (by rw [bin])
      · rw [group, away, Bool.eq_false_iff]
        exact out
      · rw [g.queue] at left
        exact List.mem_of_mem_filter left
  · rw [g.queue]
    exact p.entries.sublist (List.filter_sublist.map _)

theorem grantTo (a : l.Holds s) (idle : s.run.state = .none) (w : QueueEntry) (p : Plan) : l.Holds (s.grantTo w p) := by
  have x := grantTo_same w p s
  have gates : _ = s.gates := x .gates (by decide)
  refine a.of_laws (fun b => ?_) (fun e => ?_) (fun b => ?_) fun b posted => posted_grantTo posted b idle w p
  · exact Eq.subst (motive := PortLaws) (x .port (by decide) : _ = s.port).symm b
  · exact Eq.subst (motive := Allocator.Serves) (x .alloc (by decide) : _ = s.alloc).symm e
  · have run : SameBut [.heads, .wire] _ (s.grantTo w p) := (forHeads_grantHead _ (s.groupOf w p) _).1
    have run := run .run (by decide)
    refine ⟨?_, gates ▸ b.levels, gates ▸ b.phantom, fun none_ => ?_, fun r own => ?_⟩
    · rw [run]
      exact b.buffer
    · rw [run] at none_
      cases none_
    · rw [run] at own
      cases own

theorem grantCheck (a : l.Holds s) : l.Holds s.grantCheck := by
  unfold State.grantCheck
  split
  · rename_i conditions
    split
    · exact a
    · split
      · exact a.grantTo conditions.2.1 _ _
      · exact a
  · exact a

theorem settle (a : l.Holds s) : l.Holds s.settle := a.flushEvents.grantCheck.startEngine.emit

end Law.Holds
end Sys2Proof.Machine
end

section
/-!
The laws under the records and messages of the Feed Link and under RESUME (R92 to R107, R113 to R117, R137 to R139).
-/

namespace Sys2Proof.Machine

namespace Law.Holds

open State

variable {l : Law} {s t : State}

/-! ## Records -/

/-- A tally wait begins in a state of the run (R92). -/
theorem startTally (a : l.Holds s) {x : RunState} (waits : x ≠ .none) : l.Holds (s.startTally x) :=
  a.onRun (.inl rfl) rfl (fun _ none_ => absurd none_ waits) fun _ => .inl

theorem openGate (a : l.Holds s) (running : s.run.state ≠ .none) (limit : Half) : l.Holds (s.openGate limit) := by
  unfold State.openGate
  split
  · rename_i room
    exact a.onGates_running (fun _ => running) (fun _ => room) id
  · exact a.raiseException _

theorem closePhantom (a : l.Holds s) : l.Holds s.closePhantom := by
  have unparked : SameBut [.wire] s
      (s.forHeads s.run.group fun h => State.sendHead h (.unpark (4 + s.gates.phantom) 0)) :=
    forHeads_same (fun h t => sendHead_same h _ t) _ _
  exact ((a.same unparked (by decide)).onGates (Nat.le_refl _) (Nat.sub_le _ _)).sendSource _

theorem closeGate (a : l.Holds s) : l.Holds s.closeGate := by
  unfold State.closeGate
  refine a.closePhantom.ite ?_
  split
  · exact a.raiseException _
  · exact (a.onGates (Nat.le_refl _) (Nat.le_refl _)).startTally (by simp)

theorem takeRecord (a : l.Holds s) (r : FeedRecord) (streaming : s.run.state = .streaming) :
    l.Holds (s.takeRecord r) := by
  have sent := forward_same r (s.onRun fun c => { c with recordCount := c.recordCount + 1 })
  have taken := (a.onRun (f := fun c => { c with recordCount := c.recordCount + 1 }) (.inl rfl) rfl (fun _ => id)
    fun _ => .inl).same sent (by decide)
  have running : ((s.onRun fun c => { c with recordCount := c.recordCount + 1 }).forward r).run.state ≠ .none := by
    rw [sent .run (by decide)]
    exact fun none_ => absurd (streaming.symm.trans none_) (by simp)
  unfold State.takeRecord
  cases r with
  | block payload => exact taken
  | gateOpen limit => exact taken.openGate running limit
  | gateClose => exact taken.closeGate
  | endRecord => exact (taken.onRun (.inl rfl) rfl (fun _ => id) fun _ => .inl).startTally (by simp)

/-- A record that arrives in HELD finds room in the buffer, or is a fault (R104). -/
theorem holdRecord (a : l.Holds s) (r : FeedRecord) (held : s.run.state = .held) : l.Holds (s.holdRecord r) := by
  unfold State.holdRecord
  split
  · rename_i room
    exact a.withBuffer (fun _ none_ => absurd (held.symm.trans none_) (by simp))
      fun _ => (List.length_append ..).trans_le room
  · exact a.feedFault _

theorem arriveRecord (a : l.Holds s) (r : FeedRecord) : l.Holds (s.arriveRecord r) := by
  unfold State.arriveRecord
  split
  · exact a.setPartFlag _
  · exact a.feedFault _
  · rename_i streaming
    exact a.takeRecord r streaming
  · exact a.feedFault _
  · exact a.feedFault _
  · rename_i held
    exact a.holdRecord r held
  · exact a

theorem illFormed (a : l.Holds s) : l.Holds s.illFormed := by
  unfold State.illFormed
  split
  · exact a.setPartFlag _
  · exact a
  · exact a.feedFault _

/-! ## Messages of the source -/

theorem mapSites (a : l.Holds s) (h : HeadId) (f : SiteId → SiteContext → SiteContext) : l.Holds (s.mapSites h f) :=
  a.same (mapSites_same h f s) (by decide)

theorem startRun (a : l.Holds s) : l.Holds s.startRun := by
  unfold State.startRun
  have started := (a.forHeads (f := fun h u => u.mapSites h fun _ c =>
    match s.runEntry with
    | some e => c.startRun e
    | none => c) (fun h t b => b.mapSites h _) s.run.group).onRun (f := fun r =>
      { r with timer := none, state := .streaming }) (.inl rfl) rfl (fun _ x => absurd x (by simp)) fun _ => .inl
  simp only
  split
  · exact started.runNotice _
  · exact started

theorem endFeedReset (a : l.Holds s) (g : Byte) (b : Bool) (st : Status) : l.Holds (s.endFeedReset g b st) :=
  (a.onRun (.inl rfl) rfl (fun _ => id) fun _ => .inl).answer _ _ _ _

theorem sourceMessage (a : l.Holds s) (m : Option SourceInput) : l.Holds (s.sourceMessage m) := by
  unfold State.sourceMessage
  split
  · split
    · exact a.endFeedReset _ _ _
    · exact a
  · split
    · exact a.illFormed
    · exact a.startRun.ite a
    · exact (a.endWithoutStart _).ite a
    · exact a.arriveRecord _
    · exact a.abortedEnd.ite a
    · exact a

/-! ## The run timer -/

theorem suspect (a : l.Holds s) : l.Holds s.suspect := a.onRun (.inl rfl) rfl (fun _ => id) fun _ => .inl

/-! ## RESUME -/

theorem completeWait (a : l.Holds s) : l.Holds s.completeWait := by
  unfold State.completeWait
  split
  · exact a.makeDecision.ite (a.startTally (by simp))
  · exact a.normalEnd.ite (a.startTally (by simp))
  · exact a

/-- The replay takes records from a buffer within its bound, while the run is on (R139, R105). -/
theorem replay (a : l.Holds s) (records : List FeedRecord) (room : l.ofRun → records.length ≤ 16) :
    l.Holds (replay records s) := by
  induction records generalizing s with
  | nil => exact a
  | cons r rest ih =>
    have room (on : l.ofRun) : rest.length ≤ 16 := Nat.le_of_succ_le (room on)
    unfold State.replay
    split
    · rename_i on
      have running : s.run.state ≠ .none := by
        simp only [replays, Bool.and_eq_true, bne_iff_ne] at on
        exact on.2
      exact ih ((a.withBuffer (fun _ => running) room).arriveRecord r) room
    · exact a

theorem continueSource (a : l.Holds s) : l.Holds s.continueSource :=
  ((a.sendSource _).onRun (.inl rfl) rfl (fun _ => id) fun _ => .inl).ite a

/-- The four steps of RESUME, from a state that a hold returns to (R137). -/
theorem resumeRun (a : l.Holds s) (x : HoldRecord) {r : RunState} (returns : l.ofRun → r ≠ .none) :
    l.Holds (s.resumeRun x r) := by
  have ended : l.Holds (s.endHold r) := a.onRun (.inl rfl) rfl (fun on none_ => absurd none_ (returns on))
    fun _ own => absurd own (by simp)
  have completed := (ended.applyDefault x.raised returns).completeWait
  exact (completed.replay _ fun on => (completed.runLaws on).buffer).continueSource

end Law.Holds
end Sys2Proof.Machine
end

section
/-!
The laws under the operations of one head: joining and leaving the Run Request Queue, services, the START line and the
link (R83 to R86, R143 to R147, R149 to R156).
-/

namespace Sys2Proof.Machine

namespace State

/-! ## One head alone -/

/-- No head changes but `h`. -/
def Apart (h : HeadId) (s t : State) : Prop := ∀ k, k ≠ h → t.head k = s.head k

section
variable {h : HeadId} {s t u : State}

theorem Apart.refl (h : HeadId) (s : State) : Apart h s s := fun _ _ => rfl

theorem Apart.trans (a : Apart h s t) (b : Apart h t u) : Apart h s u := fun k e => (b k e).trans (a k e)

theorem Apart.ite {c : Prop} [Decidable c] (a : Apart h s t) (b : Apart h s u) : Apart h s (if c then t else u) := by
  split <;> assumption

theorem SameBut.head {m : List Block} (a : SameBut m s t) (free : Block.heads ∉ m) (k : HeadId) : t.head k = s.head k :=
  congrArg (fun v : Vector HeadContext 4 => v[k]) (a .heads free)

theorem SameBut.apart {m : List Block} (a : SameBut m s t) (free : Block.heads ∉ m) (h : HeadId) : Apart h s t :=
  fun k _ => a.head free k

theorem onHead_apart (h : HeadId) (f : HeadContext → HeadContext) (s : State) : Apart h s (s.onHead h f) :=
  fun _ e => (onHead_head ..).trans (if_neg e)

theorem onHead_own (h : HeadId) (f : HeadContext → HeadContext) (s : State) : (s.onHead h f).head h = f (s.head h) :=
  (onHead_head ..).trans (if_pos rfl)

end

/-! ## Heads that no block knows any more -/

section
variable {h : HeadId} {s t : State}

/-- Head `h` comes to use no plan and the other blocks forget it; the others keep their places. -/
theorem InPlace.freed (a : ∀ k, s.InPlace k) (free : t.holding h = .nothing)
    (others : ∀ k, k ≠ h → (t.head k).state = (s.head k).state)
    (group : ∀ k, k ≠ h → t.inGroup k = s.inGroup k) (gone : t.inGroup h = false)
    (queue : ∀ e ∈ t.arbiter.queue, e.head ≠ h ∧ e ∈ s.arbiter.queue)
    (jobs : ∀ j ∈ t.alloc.jobs, j.head ≠ h ∧ j ∈ s.alloc.jobs)
    (frames : ∀ k, k ≠ h → t.bin k = s.bin k) (frame : (t.bin h).frame = none) (k : HeadId) : t.InPlace k := by
  by_cases e : k = h
  · subst e
    exact .of_free free gone (fun e mem => (queue e mem).1) (fun j mem => (jobs j mem).1) (by rw [frame]; rfl)
  · exact (a k).congr (others k e) (group k e) (fun d mem _ => (queue d mem).2) (fun j mem _ => (jobs j mem).2)
      (by rw [frames k e])

/-- A head that is not IN_RUN is not in the group. -/
theorem InPlace.outside (a : s.InPlace h) (apart : (s.head h).state ≠ .inRun) : s.inGroup h = false :=
  Bool.eq_false_iff.mpr fun member => apart (a.grouped.mpr member)

theorem InPlace.jobless (a : s.InPlace h) (apart : (s.head h).state ≠ .analysis) (j : Job) (mem : j ∈ s.alloc.jobs) :
    j.head ≠ h := fun own => apart (a.analysed j mem own)

theorem InPlace.unframed (a : s.InPlace h) (apart : (s.head h).state ≠ .binWait) : (s.bin h).frame = none :=
  Option.not_isSome_iff_eq_none.mp fun some_ => apart (a.frames.mp some_)

end

/-! ## The Run Request Queue -/

/-- An IDLE head with a LOCKED link joins the queue (R83). -/
theorem Posted.join {h : HeadId} {s : State} (p : s.Posted) (idle : (s.head h).state = .idle) (i : SlotId) :
    (s.join h i).Posted := by
  unfold State.join
  split
  · exact p
  · rename_i plan _
    obtain ⟨group, queue, jobs, frame⟩ := (p.placed h).free (holding_of idle)
    have link := (p.sound h).linked (by simp [idle, HeadState.onLink])
    have used := useSlot_same i ((s.onArbiter fun a =>
      { a with queue := a.queue ++ [⟨h, i, plan.planClass, s.store.classMap[plan.planClass]⟩] }).setHeadState h .queued)
    have own := (used.head (by decide) h).trans (onHead_own h (fun c => { c with state := .queued }) _)
    have other {k : HeadId} (e : k ≠ h) := (used.head (by decide) k).trans
      (onHead_apart h (fun c => { c with state := .queued }) _ k e)
    refine ⟨fun k => ?_, fun k => ?_, ?_, p.jobs⟩
    · by_cases e : k = h
      · subst e
        exact own ▸ (p.sound k).withState .queued ((p.sound k).awake (by simp [idle])) (fun _ => link)
          (fun off => by cases off)
      · exact other e ▸ p.sound k
    · by_cases e : k = h
      · subst e
        have state := congrArg HeadContext.state own
        refine ⟨iff_of_false (by rw [state]; simp) (Bool.eq_false_iff.mp group), fun _ _ _ => state,
          fun j mem same => absurd same (jobs j mem), ?_⟩
        rw [state]
        exact iff_of_false (Bool.eq_false_iff.mp frame) (by simp)
      · refine (p.placed k).congr (congrArg HeadContext.state (other e)) rfl (fun d mem same => ?_)
          (fun _ mem _ => mem) rfl
        rcases List.mem_append.mp mem with mem | mem
        · exact mem
        · exact absurd (same.symm.trans (congrArg QueueEntry.head (List.mem_singleton.mp mem))) e
    · show ((s.arbiter.queue ++ [_]).map QueueEntry.head).Nodup
      rw [List.map_append, List.nodup_append]
      refine ⟨p.entries, List.nodup_singleton _, fun x mem y new same => ?_⟩
      obtain ⟨e, old, own⟩ := List.mem_map.mp mem
      exact queue e old ((own.trans same).trans (List.mem_singleton.mp new))

/-- The entry of a QUEUED head leaves, and the head goes to a state that its link allows (R86, R146). -/
theorem InPlace.withdraw {h : HeadId} {s : State} (a : ∀ k, s.InPlace k) (queued : (s.head h).state = .queued)
    {x : HeadState} (free : x.holding = .nothing) (k : HeadId) : (s.withdraw h x).InPlace k := by
  have used := dropUse_same (s.headSlot h) ((s.unqueue h).setHeadState h x)
  refine InPlace.freed a ((holding_of (congrArg HeadContext.state ((used.head (by decide) h).trans
      (onHead_own h (fun c => { c with state := x }) _)))).trans free) (fun k e => ?_) (fun k _ => ?_) ?_ (fun e mem => ?_)
    (fun j mem => ?_) (fun k _ => ?_) ?_ k
  · exact congrArg HeadContext.state ((used.head (by decide) k).trans
      (onHead_apart h (fun c => { c with state := x }) _ k e))
  · exact congrArg (fun r : RunController => r.group.getLsbD k.val) (used .run (by decide))
  · exact (congrArg (fun r : RunController => r.group.getLsbD h.val) (used .run (by decide))).trans
      ((a h).outside (by simp [queued]))
  · rw [used .arbiter (by decide)] at mem
    have mem := List.mem_filter.mp mem
    exact ⟨by simpa using mem.2, mem.1⟩
  · rw [used .alloc (by decide)] at mem
    exact ⟨(a h).jobless (by simp [queued]) j mem, mem⟩
  · exact congrArg (fun v : Vector BinPort 4 => v[k]) (used .bins (by decide))
  · exact (congrArg (fun v : Vector BinPort 4 => v[h].frame) (used .bins (by decide))).trans
      ((a h).unframed (by simp [queued]))

theorem withdraw_head (h k : HeadId) (x : HeadState) (s : State) :
    (s.withdraw h x).head k = if k = h then { s.head h with state := x } else s.head k :=
  ((dropUse_same (s.headSlot h) ((s.unqueue h).setHeadState h x)).head (by decide) k).trans (onHead_head ..)

theorem withdraw_queue (h : HeadId) (x : HeadState) (s : State) :
    (s.withdraw h x).arbiter.queue = s.arbiter.queue.filter fun e => e.head != h :=
  congrArg Arbiter.queue (dropUse_same (s.headSlot h) ((s.unqueue h).setHeadState h x) .arbiter (by decide))

theorem Posted.withdraw {h : HeadId} {s : State} (p : s.Posted) (queued : (s.head h).state = .queued) {x : HeadState}
    (free : x.holding = .nothing) (linked : x = .offline → (s.head h).link ≠ .locked) : (s.withdraw h x).Posted := by
  refine ⟨fun k => ?_, InPlace.withdraw p.placed queued free, ?_, ?_⟩
  · rw [withdraw_head]
    split
    · exact (p.sound h).withState x ((p.sound h).awake (by simp [queued]))
        (fun _ => (p.sound h).linked (by simp [queued, HeadState.onLink])) linked
    · exact p.sound k
  · rw [withdraw_queue]
    exact p.entries.sublist (List.filter_sublist.map _)
  · exact (withdraw_same h x s .alloc (by decide) : _ = s.alloc) ▸ p.jobs

end State

namespace Law.Holds

open State

variable {l : Law} {s t : State} {h : HeadId}

/-- A head changes and stays sound, in its state or between states that use no plan. -/
theorem onHead (a : l.Holds s) {f : HeadContext → HeadContext}
    (sound : l = .heads → s.Posted → (f (s.head h)).Sound)
    (state : (f (s.head h)).state = (s.head h).state ∨
      s.holding h = .nothing ∧ (f (s.head h)).state.holding = .nothing) : l.Holds (s.onHead h f) :=
  a.ofHeads (onHead_same h f s) (by decide) fun on p => p.onHead (sound on p) state

theorem answerOk (a : l.Holds s) (q : Request) (f : List Byte) : l.Holds (s.answerOk q f) := a.answer _ _ _ _

theorem refuse (a : l.Holds s) (q : Request) (st : Status) : l.Holds (s.refuse q st) := a.answer _ _ _ _

theorem join (a : l.Holds s) (idle : (s.head h).state = .idle) (i : SlotId) : l.Holds (s.join h i) :=
  a.ofHeads (join_same h i s) (by decide) fun _ p => p.join idle i

theorem joinDefault (a : l.Holds s) (idle : (s.head h).state = .idle) : l.Holds (s.joinDefault h) := by
  unfold State.joinDefault
  split
  · exact a
  · exact a.join idle _

theorem withdraw (a : l.Holds s) (queued : (s.head h).state = .queued) {x : HeadState} (free : x.holding = .nothing)
    (linked : l = .heads → x = .offline → (s.head h).link ≠ .locked) : l.Holds (s.withdraw h x) :=
  a.ofHeads (withdraw_same h x s) (by decide) fun on p => p.withdraw queued free (linked on)

/-! ## Services -/

theorem setSupply (a : l.Holds s) {x : SupplyState} (link : l = .heads → x ≠ .off → (s.head h).link = .locked) :
    l.Holds (s.setSupply h x) :=
  a.onHead (fun on p => (p.sound h).withSupply x (link on)) (.inl rfl)

theorem answerService (a : l.Holds s) (sv : Service) (st : Status) (f : List Byte) :
    l.Holds (s.answerService sv st f) := by
  unfold State.answerService
  split
  · exact a.answer _ _ _ _
  · exact a

theorem issueService (a : l.Holds s) (link : l = .heads → (s.head h).link = .locked) (op : ServiceOp)
    (o : ServiceOrigin) : l.Holds (s.issueService h op o) := by
  have busy : l.Holds (s.onHead h fun c =>
      { c with serviceNumber := (s.head h).serviceNumber + 1,
               slot := some ⟨op, o, (s.head h).serviceNumber + 1, op.timeout⟩ }) :=
    a.onHead (fun on p =>
      have sound := p.sound h
      ⟨sound.linked, sound.offline, sound.supplied, fun _ => link on, fun wake => ⟨(sound.wakes wake).1, rfl⟩⟩) (.inl rfl)
  exact busy.sendHead _ _

theorem startSupply (a : l.Holds s) (link : l = .heads → (s.head h).link = .locked) (on : Bool) (o : ServiceOrigin) :
    l.Holds (s.startSupply h on o) :=
  (a.issueService link _ o).setSupply fun law _ => by
    rw [issueService_eq]
    exact (congrArg HeadContext.link (onHead_own ..)).trans (link law)

theorem pauseFilter (a : l.Holds s) (h : HeadId) : l.Holds (s.pauseFilter h) := by
  refine a.onHead_plain ?_ ?_ ?_ ?_ ?_ <;> split <;> rfl

theorem resumeFilter (a : l.Holds s) (h : HeadId) : l.Holds (s.resumeFilter h) := by
  refine a.onHead_plain ?_ ?_ ?_ ?_ ?_ <;> split <;> rfl

/-- A head goes between states that use no plan, with no wake pending. -/
theorem setHeadState (a : l.Holds s) {x : HeadState} (free : s.holding h = .nothing) (freed : x.holding = .nothing)
    (wake : l = .heads → s.Posted → (s.head h).pendingWake = none)
    (linked : l = .heads → s.Posted → x.onLink = true → (s.head h).link = .locked)
    (offline : l = .heads → x = .offline → (s.head h).link ≠ .locked) : l.Holds (s.setHeadState h x) :=
  a.onHead (fun on p => (p.sound h).withState x (wake on p) (linked on p) (offline on)) (.inr ⟨free, freed⟩)

/-- A wake of a STANDBY head with no wake pending (R154). -/
theorem startWake (a : l.Holds s) (standby : (s.head h).state = .standby)
    (wake : l = .heads → (s.head h).pendingWake = none) (o : ServiceOrigin) (mark : Bool) :
    l.Holds (s.startWake h o mark) := by
  have link (on : l = .heads) : (s.head h).link = .locked :=
    ((a.posted on).sound h).linked (by simp [standby, HeadState.onLink])
  have issued (on : l = .heads) : ((s.issueService h (.headWake mark) o).head h).link = .locked ∧
      ((s.issueService h (.headWake mark) o).head h).pendingWake = none := by
    rw [issueService_eq]
    exact ⟨(congrArg HeadContext.link (onHead_own ..)).trans (link on),
      (congrArg HeadContext.pendingWake (onHead_own ..)).trans (wake on)⟩
  have free : (s.issueService h (.headWake mark) o).holding h = .nothing :=
    ((issueService_quiet h s _ o).holding h).trans (holding_of standby)
  exact ((a.issueService link _ o).setHeadState free rfl (fun on _ => (issued on).2) (fun on _ _ => (issued on).1)
    fun _ off => by cases off).resumeFilter h

/-! ## The ends of services -/

theorem endSupplyOn (a : l.Holds s) (link : l = .heads → (s.head h).link = .locked) (sv : Service) (e : ServiceEnd) :
    l.Holds (s.endSupplyOn h sv e) := by
  have set (x : SupplyState) : l.Holds (s.setSupply h x) := a.setSupply fun on _ => link on
  unfold State.endSupplyOn
  split
  · exact (set _).answerService _ _ _
  · exact ((set _).raiseFlag _ _).answerService _ _ _
  · exact (set _).answerService _ _ _
  · exact (set _).answerService _ _ _

theorem endSupplyOff (a : l.Holds s) (link : l = .heads → (s.head h).link = .locked) (sv : Service) (e : ServiceEnd) :
    l.Holds (s.endSupplyOff h sv e) := by
  have set (x : SupplyState) : l.Holds (s.setSupply h x) := a.setSupply fun on _ => link on
  unfold State.endSupplyOff
  split
  · exact (set _).answerService _ _ _
  · exact (set _).answerService _ _ _

theorem endAccess (a : l.Holds s) (sv : Service) (e : ServiceEnd) (r : Bool) : l.Holds (s.endAccess sv e r) := by
  unfold State.endAccess
  split
  · exact a.answerService _ _ _
  · exact a.answerService _ _ _
  · exact a.answerService _ _ _

theorem endSleepGood (a : l.Holds s) (sv : Service) : l.Holds (s.endSleepGood h sv) := by
  unfold State.endSleepGood
  split
  · rename_i queued
    exact (a.issueService (fun on => ((a.posted on).sound h).linked (by simp [queued, HeadState.onLink])) _ _).answerService
      _ _ _
  · rename_i idle
    exact ((a.setHeadState (holding_of idle) rfl (fun _ p => (p.sound h).awake (by simp [idle]))
      (fun _ p _ => (p.sound h).linked (by simp [idle, HeadState.onLink]))
      fun _ off => by cases off).pauseFilter h).answerService _ _ _
  · exact a.answerService _ _ _

theorem endSleep (a : l.Holds s) (sv : Service) (e : ServiceEnd) : l.Holds (s.endSleep h sv e) := by
  unfold State.endSleep
  split
  · exact a.answerService _ _ _
  · exact a.answerService _ _ _
  · exact a.endSleepGood sv

/-- A WAKING head goes to another state of its link. -/
theorem wakes (a : l.Holds s) (waking : (s.head h).state = .waking) {x : HeadState} (freed : x.holding = .nothing)
    (apart : x ≠ .offline) : l.Holds (s.setHeadState h x) :=
  a.setHeadState (holding_of waking) freed (fun _ p => (p.sound h).awake (by simp [waking]))
    (fun _ p _ => (p.sound h).linked (by simp [waking, HeadState.onLink])) fun _ off => absurd off apart

theorem endWakeGood (a : l.Holds s) (sv : Service) (mark : Bool) : l.Holds (s.endWakeGood h sv mark) := by
  refine answerService ?_ _ _ _
  split
  · rename_i waking
    have idle : l.Holds (s.setHeadState h .idle) := a.wakes waking rfl (by simp)
    exact (idle.joinDefault (congrArg HeadContext.state (onHead_own ..))).ite idle
  · exact a

theorem endWakeBad (a : l.Holds s) (sv : Service) : l.Holds (s.endWakeBad h sv) := by
  refine answerService (raiseFlag ?_ _ _) _ _ _
  split
  · rename_i waking
    exact (a.wakes waking rfl (by simp)).pauseFilter h
  · exact a

theorem endWake (a : l.Holds s) (sv : Service) (mark : Bool) (e : ServiceEnd) : l.Holds (s.endWake h sv mark e) := by
  unfold State.endWake
  split
  · exact a.endWakeBad sv
  · exact a.endWakeBad sv
  · exact a.endWakeGood sv mark

end Law.Holds

namespace State

/-- What a service ends with by its operation (R150 to R154). -/
def endOp (h : HeadId) (sv : Service) (e : ServiceEnd) (s : State) : State :=
  match sv.op with
  | .supplyOn => s.endSupplyOn h sv e
  | .supplyOff => s.endSupplyOff h sv e
  | .headRead _ => s.endAccess sv e true
  | .headWrite _ _ => s.endAccess sv e false
  | .headSleep => s.endSleep h sv e
  | .headWake mark => s.endWake h sv mark e

theorem endService_eq (h : HeadId) (sv : Service) (e : ServiceEnd) (s : State) :
    s.endService h sv e = (endOp h sv e (s.onHead h fun c => { c with slot := none })).issuePendingWake h := rfl

/-- The heads stay but for supply and flags of one head. -/
structure Dozes (h : HeadId) (s t : State) : Prop where
  same : SameBut [.heads, .port] s t
  apart : Apart h s t
  state : (t.head h).state = (s.head h).state
  link : (t.head h).link = (s.head h).link
  slot : (t.head h).slot = (s.head h).slot
  wake : (t.head h).pendingWake = (s.head h).pendingWake

section
variable {h : HeadId} {s t u : State}

theorem Dozes.trans (a : Dozes h s t) (b : Dozes h t u) : Dozes h s u :=
  ⟨a.same.trans b.same, a.apart.trans b.apart, b.state.trans a.state, b.link.trans a.link, b.slot.trans a.slot,
    b.wake.trans a.wake⟩

theorem SameBut.dozes (a : SameBut [.port] s t) (h : HeadId) : Dozes h s t := by
  have own := a.head (by decide) h
  exact ⟨a.mono (by decide), a.apart (by decide) h, by rw [own], by rw [own], by rw [own], by rw [own]⟩

theorem answerService_dozes (h : HeadId) (sv : Service) (st : Status) (f : List Byte) (s : State) :
    Dozes h s (s.answerService sv st f) := (answerService_same sv st f s).dozes h

theorem onHead_dozes {f : HeadContext → HeadContext} (state : (f (s.head h)).state = (s.head h).state)
    (link : (f (s.head h)).link = (s.head h).link) (slot : (f (s.head h)).slot = (s.head h).slot)
    (wake : (f (s.head h)).pendingWake = (s.head h).pendingWake) : Dozes h s (s.onHead h f) :=
  ⟨(onHead_same h _ s).mono (by decide), onHead_apart h _ s, by rw [onHead_own, state], by rw [onHead_own, link],
    by rw [onHead_own, slot], by rw [onHead_own, wake]⟩

theorem setSupply_dozes (h : HeadId) (x : SupplyState) (s : State) : Dozes h s (s.setSupply h x) :=
  onHead_dozes rfl rfl rfl rfl

theorem raiseFlag_dozes (h : HeadId) (x : BitVec 10) (s : State) : Dozes h s (s.raiseFlag h x) :=
  onHead_dozes rfl rfl rfl rfl

/-- The end of a service leaves a STANDBY head STANDBY (R150 to R154). -/
theorem endOp_dozes (standby : (s.head h).state = .standby) (sv : Service) (e : ServiceEnd) :
    Dozes h s (endOp h sv e s) := by
  have answered := fun st f => answerService_dozes h sv st f s
  have set := fun x st f => (setSupply_dozes h x s).trans (answerService_dozes h sv st f _)
  have failed : Dozes h s (s.endWakeBad h sv) := by
    unfold endWakeBad
    simp only [standby]
    exact (raiseFlag_dozes h _ s).trans (answerService_dozes h sv _ _ _)
  unfold endOp
  split
  · unfold endSupplyOn
    split
    · exact set _ _ _
    · exact ((setSupply_dozes h _ s).trans (raiseFlag_dozes h _ _)).trans (answerService_dozes h sv _ _ _)
    · exact set _ _ _
    · exact set _ _ _
  · unfold endSupplyOff
    split <;> exact set _ _ _
  · unfold endAccess
    split <;> exact answered _ _
  · unfold endAccess
    split <;> exact answered _ _
  · unfold endSleep
    split
    · exact answered _ _
    · exact answered _ _
    · unfold endSleepGood
      simp only [standby]
      exact answered _ _
  · unfold endWake
    split
    · exact failed
    · exact failed
    · unfold endWakeGood
      simp only [standby]
      exact answered _ _

/-- With its slot free, a STANDBY head is sound again once its pending wake is absent. -/
theorem Dozes.posted (p : s.Posted) (standby : (s.head h).state = .standby)
    (d : Dozes h (s.onHead h fun c => { c with slot := none }) t) :
    (t.onHead h fun c => { c with pendingWake := none }).Posted := by
  have link := (p.sound h).linked (by simp [standby, HeadState.onLink])
  have state : (t.head h).state = .standby := by rw [d.state, onHead_own]; exact standby
  have locked : (t.head h).link = .locked := by rw [d.link, onHead_own]; exact link
  have free : (t.head h).slot = none := by rw [d.slot, onHead_own]
  have other {k : HeadId} (e : k ≠ h) : (t.onHead h fun c => { c with pendingWake := none }).head k = s.head k :=
    (onHead_apart h _ t k e).trans ((d.apart k e).trans (onHead_apart h _ s k e))
  have queue : t.arbiter.queue = s.arbiter.queue := congrArg Arbiter.queue (d.same .arbiter (by decide))
  have jobs : t.alloc.jobs = s.alloc.jobs := congrArg Allocator.jobs (d.same .alloc (by decide))
  have bins (k : HeadId) : t.bin k = s.bin k := congrArg (fun v : Vector BinPort 4 => v[k]) (d.same .bins (by decide))
  have group (k : HeadId) : t.inGroup k = s.inGroup k :=
    congrArg (fun r : RunController => r.group.getLsbD k.val) (d.same .run (by decide))
  refine ⟨fun k => ?_, fun k => (p.placed k).congr ?_ (group k) (fun _ mem _ => queue ▸ mem) (fun _ mem _ => jobs ▸ mem)
    (congrArg (fun b : BinPort => b.frame.isSome) (bins k)), queue ▸ p.entries, jobs ▸ p.jobs⟩
  · by_cases e : k = h
    · subst e
      rw [onHead_own]
      exact ⟨fun _ => locked, fun off => absurd (state.symm.trans off) (by simp), fun _ => locked, fun _ => locked,
        fun some_ => absurd some_ (by simp)⟩
    · exact other e ▸ p.sound k
  · by_cases e : k = h
    · subst e
      rw [onHead_own]
      exact state.trans standby.symm
    · rw [other e]

end

end State

namespace Law.Holds

open State

variable {l : Law} {s t : State} {h : HeadId}

theorem endOp (a : l.Holds s) (link : l = .heads → (s.head h).link = .locked) (sv : Service) (e : ServiceEnd) :
    l.Holds (endOp h sv e s) := by
  unfold State.endOp
  split
  · exact a.endSupplyOn link sv e
  · exact a.endSupplyOff link sv e
  · exact a.endAccess sv e _
  · exact a.endAccess sv e _
  · exact a.endSleep sv e
  · exact a.endWake sv _ e

/-- With no wake pending, or a busy slot, no wake is issued (R149). -/
theorem issuePendingWake_none (calm : (s.head h).pendingWake.isSome = true → (s.head h).slot.isSome = true) :
    s.issuePendingWake h = s := by
  unfold State.issuePendingWake
  split
  · rename_i free wake
    exact absurd (calm (by rw [wake]; rfl)) (by simp [free])
  · rfl

/-- A service ends, and a pending wake follows it (R149). -/
theorem endService (a : l.Holds s) (slot : (s.head h).slot.isSome = true) (sv : Service) (e : ServiceEnd) :
    l.Holds (s.endService h sv e) := by
  rw [endService_eq]
  have freed := onHead_same h (fun c => { c with slot := none }) s
  have away {m : Law} (apart : m ≠ .heads) (b : m.Holds s) :
      m.Holds (State.endOp h sv e (s.onHead h fun c => { c with slot := none })) :=
    (b.ofHeads freed (by decide) fun on => absurd on apart).endOp (fun on => absurd on apart) sv e
  have issued := issuePendingWake_same h (State.endOp h sv e (s.onHead h fun c => { c with slot := none }))
  by_cases on : l = .heads
  · subst on
    have link := (a.2.sound h).serviced slot
    have locked : ((s.onHead h fun c => { c with slot := none }).head h).link = .locked := by rw [onHead_own]; exact link
    cases wake : (s.head h).pendingWake with
    | none =>
      have sound : HeadContext.Sound { s.head h with slot := none } :=
        ⟨(a.2.sound h).linked, (a.2.sound h).offline, (a.2.sound h).supplied, fun some_ => absurd some_ (by simp),
          fun some_ => absurd some_ (by simp [wake])⟩
      have ended := (a.onHead (fun _ _ => sound) (.inl rfl)).endOp (fun _ => locked) sv e
      rw [issuePendingWake_none fun some_ => ((ended.2.sound h).wakes some_).2]
      exact ended
    | some mark =>
      have standby := ((a.2.sound h).wakes (by rw [wake]; rfl)).1
      have d := endOp_dozes (s := s.onHead h fun c => { c with slot := none }) (by rw [onHead_own]; exact standby) sv e
      have run : RunLaws (State.endOp h sv e (s.onHead h fun c => { c with slot := none })) :=
        away (m := .run) (by simp) a.1
      have free := d.slot.trans (congrArg HeadContext.slot (onHead_own ..))
      have pending := (d.wake.trans (congrArg HeadContext.pendingWake (onHead_own ..))).trans wake
      have state := d.state.trans ((congrArg HeadContext.state (onHead_own ..)).trans standby)
      have woken : Law.heads.Holds ((State.endOp h sv e (s.onHead h fun c => { c with slot := none })).onHead h fun c =>
          { c with pendingWake := none }) := ⟨run.of_eq rfl rfl, d.posted a.2 standby⟩
      unfold State.issuePendingWake
      simp only [free, pending]
      exact woken.startWake ((congrArg HeadContext.state (onHead_own ..)).trans state)
        (fun _ => congrArg HeadContext.pendingWake (onHead_own ..)) _ _
  · exact (away on a).ofHeads issued (by decide) fun x => absurd x on

end Law.Holds
end Sys2Proof.Machine
end

section
/-!
The laws when a head loses its link or its wait ends: the START line, alignment marks, HEAD_LINK (R143 to R147, R155,
R156).
-/

namespace Sys2Proof.Machine

namespace State

variable {h : HeadId} {s t : State}

/-- The laws of the heads but for what head `h` needs its link for, when that link is not LOCKED. -/
structure Unlinked (h : HeadId) (s : State) : Prop where
  sound : ∀ k, k ≠ h → (s.head k).Sound
  link : (s.head h).link ≠ .locked
  placed : ∀ k, s.InPlace k
  entries : (s.arbiter.queue.map QueueEntry.head).Nodup
  jobs : (s.alloc.jobs.map Job.head).Nodup

/-- Supply and services have gone with the link (R146). -/
structure Bare (h : HeadId) (s : State) : Prop where
  supply : (s.head h).supply = .off
  slot : (s.head h).slot = none
  wake : (s.head h).pendingWake = none

/-- A head without link, supply and services is sound in every state that needs no link. -/
theorem Bare.sound {c : HeadContext} {x : HeadState} (link : (s.head h).link ≠ .locked) (b : Bare h s)
    (off : x.onLink = false) (own : ∃ flags raised, c = { s.head h with state := x, flags, raised }) : c.Sound := by
  obtain ⟨_, _, rfl⟩ := own
  exact ⟨fun on => absurd on (by simp [off]), fun _ => link, fun some_ => absurd b.supply some_,
    fun some_ => absurd some_ (by simp [b.slot]), fun some_ => absurd some_ (by simp [b.wake])⟩

/-- Every head is sound again when head `h` is. -/
theorem Unlinked.posted (u : s.Unlinked h) (sound : (t.head h).Sound) (apart : Apart h s t) (placed : ∀ k, t.InPlace k)
    (queue : t.arbiter.queue.Sublist s.arbiter.queue) (jobs : t.alloc.jobs = s.alloc.jobs) : t.Posted :=
  ⟨fun k => if e : k = h then e ▸ sound else apart k e ▸ u.sound k e, placed, u.entries.sublist (queue.map _),
    jobs ▸ u.jobs⟩

/-- The state of a head changes between states that use no plan. -/
theorem Unlinked.setHeadState (u : s.Unlinked h) (b : Bare h s) (free : s.holding h = .nothing) :
    (s.setHeadState h .offline).Posted := by
  have own := onHead_own h (fun c => { c with state := .offline }) s
  obtain ⟨group, queue, jobs, frame⟩ := (u.placed h).free free
  refine u.posted (b.sound u.link rfl ⟨_, _, own⟩) (onHead_apart h _ s)
    (InPlace.freed u.placed ?_ (fun k e => ?_) (fun _ _ => rfl)
    group (fun e mem => ⟨queue e mem, mem⟩) (fun j mem => ⟨jobs j mem, mem⟩) (fun _ _ => rfl) ?_) (.refl _) rfl
  · exact holding_of (congrArg HeadContext.state own)
  · exact congrArg HeadContext.state (onHead_apart h _ s k e)
  · exact Option.not_isSome_iff_eq_none.mp (Bool.eq_false_iff.mp frame)

/-- A head of the group whose link goes leaves the run (R146, R109). -/
theorem Unlinked.removeHead (u : s.Unlinked h) (b : Bare h s) (member : s.inGroup h = true) (c : AbortCause) :
    (s.removeHead h c).Posted := by
  have x := removeHead_same h c s
  have own := (removeHead_head h h c s).trans (if_pos rfl)
  have apart : Apart h s (s.removeHead h c) := fun k e => (removeHead_head h k c s).trans (if_neg e)
  have queue : (s.removeHead h c).arbiter.queue = s.arbiter.queue := congrArg Arbiter.queue (x .arbiter (by decide))
  have jobs : (s.removeHead h c).alloc.jobs = s.alloc.jobs := congrArg Allocator.jobs (x .alloc (by decide))
  refine u.posted (b.sound (x := .analysis) u.link rfl ⟨_, _, own⟩) apart
    (InPlace.leave (set := fun k => decide (k = h)) (x := .analysis)
    (added := []) u.placed (.inr rfl) (fun k e => of_decide_eq_true e ▸ member) (fun k e => ?_) (fun k e => ?_)
    (fun k => ?_) queue (x .bins (by decide)) (jobs.trans (List.append_nil _).symm) (by simp)) (queue ▸ .refl _) jobs
  · obtain rfl := of_decide_eq_true e
    exact congrArg HeadContext.state own
  · exact congrArg HeadContext.state (apart k (of_decide_eq_false e))
  · refine (congrArg (fun r : RunController => r.group.getLsbD k.val) (removeHead_run h c s)).trans
      ((getLsbD_without ..).trans ?_)
    simp [inGroup]

end State

namespace Law.Holds

open State

variable {l : Law} {s t : State} {h : HeadId}

/-! ## The START line -/

theorem edgeWake (a : l.Holds s) (standby : (s.head h).state = .standby) : l.Holds (s.edgeWake h) := by
  unfold State.edgeWake
  simp only
  split
  · rename_i free
    refine a.startWake standby (fun on => ?_) _ _
    cases wake : (s.head h).pendingWake with
    | none => rfl
    | some mark => exact absurd (((a.posted on).sound h).wakes (by rw [wake]; rfl)).2 (by simp [free])
  · rename_i busy
    exact a.onHead (fun _ p =>
      have sound := p.sound h
      ⟨sound.linked, sound.offline, sound.supplied, sound.serviced, fun _ => ⟨standby, by simp [busy]⟩⟩) (.inl rfl)

theorem startEdge (a : l.Holds s) : l.Holds (s.startEdge h) := by
  have seen := a.raiseFlag h HeadFlag.startSeen
  have state : ((s.raiseFlag h HeadFlag.startSeen).head h).state = (s.head h).state :=
    (congrArg HeadContext.state (onHead_own h (HeadContext.raiseFlag HeadFlag.startSeen) s)).trans rfl
  unfold State.startEdge
  simp only
  split
  · exact seen
  · rename_i standby
    exact (seen.edgeWake (state.trans standby)).ite seen
  · rename_i idle
    exact (seen.joinDefault (state.trans idle)).ite seen
  · exact seen.raiseFlag _ _

theorem recognise (a : l.Holds s) (x : LineLevel) : l.Holds (s.recognise h x) := by
  have taken : l.Holds (s.onHead h fun c => { c with recognised := x, candidate := none }) :=
    a.onHead_plain rfl rfl rfl rfl rfl
  exact taken.startEdge.ite taken

theorem filterChange (a : l.Holds s) (x : LineLevel) : l.Holds (s.filterChange h x) := by
  unfold State.filterChange
  exact (a.onHead_plain rfl rfl rfl rfl rfl).ite ((a.recognise x).ite (a.ite (a.onHead_plain rfl rfl rfl rfl rfl)))

/-! ## A link that goes -/

theorem answerCancelled (a : l.Holds s) (h : HeadId) (v : Option Service) (st : Status) :
    l.Holds (s.answerCancelled h v st) := by
  unfold State.answerCancelled
  split
  · exact a
  · exact a.answerService _ _ _

/-- What a head without its link goes to, in all laws but that of the heads (R146). -/
theorem headOffLink (a : l.Holds s) (apart : l ≠ .heads) : l.Holds (s.headOffLink h) := by
  have set : l.Holds (s.setHeadState h .offline) :=
    a.ofHeads (setHeadState_same h _ s) (by decide) fun on => absurd on apart
  unfold State.headOffLink
  split
  · exact a
  · exact set.resumeFilter h
  · exact set
  · exact set
  · rename_i queued
    exact a.withdraw queued rfl fun on => absurd on apart
  · exact a.dropHead h _
  · exact a
  · exact a

/-- The same for the law of the heads: the head is sound again without its link (R146). -/
theorem headOffLink_unlinked (b : RunLaws s) (u : s.Unlinked h) (bare : Bare h s) :
    Law.heads.Holds (s.headOffLink h) := by
  have still (off : (s.head h).state.onLink = false) : Law.heads.Holds s :=
    ⟨b, u.posted (bare.sound u.link off ⟨_, _, rfl⟩) (Apart.refl h s) u.placed (.refl _) rfl⟩
  have set (free : s.holding h = .nothing) : Law.heads.Holds (s.setHeadState h .offline) :=
    ⟨b.of_eq rfl rfl, u.setHeadState bare free⟩
  unfold State.headOffLink
  split
  · rename_i state
    exact still (by rw [state]; rfl)
  · rename_i state
    exact (set (holding_of state)).resumeFilter h
  · rename_i state
    exact set (holding_of state)
  · rename_i state
    exact set (holding_of state)
  · rename_i queued
    have own := (withdraw_head h h .offline s).trans (if_pos rfl)
    refine ⟨b.of_eq (withdraw_same h _ s .run (by decide)) (withdraw_same h _ s .gates (by decide)),
      u.posted (bare.sound u.link rfl ⟨_, _, own⟩) (fun k e => (withdraw_head h k _ s).trans (if_neg e))
        (InPlace.withdraw u.placed queued rfl) (withdraw_queue h _ s ▸ List.filter_sublist)
        (congrArg Allocator.jobs (withdraw_same h _ s .alloc (by decide)))⟩
  · rename_i inRun
    have member := (u.placed h).grouped.mp inRun
    unfold State.dropHead
    rw [if_pos (show s.run.group.getLsbD h.val = true from member)]
    exact afterDrop (l := .heads) ⟨b.removeHead _, u.removeHead bare member _⟩
  · rename_i state
    exact still (by rw [state]; rfl)
  · rename_i state
    exact still (by rw [state]; rfl)

/-- A head whose link has gone loses its supply, its services and its place on the link (R146). -/
theorem linkDown (a : l ≠ .heads → l.Holds s) (u : l = .heads → RunLaws s ∧ s.Unlinked h) :
    l.Holds (s.linkDown h) := by
  have off := onHead_same h (fun c => { c with supply := .off }) s
  have cleared := onHead_same h (fun c => { c with slot := none, pendingWake := none }) (s.setSupply h .off)
  have answered := answerCancelled_same h (s.head h).slot .noAnswer ((s.setSupply h .off).clearSlot h)
  by_cases on : l = .heads
  · subst on
    obtain ⟨b, u⟩ := u rfl
    have before : SameBut [.heads, .port] s
        (((s.setSupply h .off).clearSlot h).answerCancelled h (s.head h).slot .noAnswer) :=
      (off.trans cleared).comp answered (by decide) (by decide)
    have head (k : HeadId) : (((s.setSupply h .off).clearSlot h).answerCancelled h (s.head h).slot .noAnswer).head k =
        if k = h then { s.head h with supply := .off, slot := none, pendingWake := none } else s.head k := by
      rw [answered.head (by decide), State.clearSlot, State.setSupply, onHead_head, onHead_own]
      split
      · rfl
      · rename_i e
        exact onHead_apart h _ s k e
    have own := (head h).trans (if_pos rfl)
    have other {k : HeadId} (e : k ≠ h) := (head k).trans (if_neg e)
    have queue : _ = s.arbiter.queue := congrArg Arbiter.queue (before .arbiter (by decide))
    have jobs : _ = s.alloc.jobs := congrArg Allocator.jobs (before .alloc (by decide))
    refine headOffLink_unlinked (b.of_eq (before .run (by decide)) (before .gates (by decide)))
      ⟨fun k e => other e ▸ u.sound k e, by rw [own]; exact u.link, fun k => ?_, queue ▸ u.entries, jobs ▸ u.jobs⟩
      ⟨by rw [own], by rw [own], by rw [own]⟩
    refine (u.placed k).congr ?_ (congrArg (fun r : RunController => r.group.getLsbD k.val) (before .run (by decide)))
      (fun _ mem _ => queue ▸ mem) (fun _ mem _ => jobs ▸ mem)
      (congrArg (fun v : Vector BinPort 4 => v[k].frame.isSome) (before .bins (by decide)))
    by_cases e : k = h
    · subst e
      rw [own]
    · rw [other e]
  · have bare := ((a on).ofHeads off (by decide) fun x => absurd x on).ofHeads cleared (by decide) fun x => absurd x on
    exact (bare.answerCancelled _ _ _).headOffLink on

/-- The link of a head goes, by whatever change of the head alone. -/
theorem severed (a : l.Holds s) (x : SameBut [.heads] s t) (apart : Apart h s t)
    (state : (t.head h).state = (s.head h).state) (link : (t.head h).link ≠ .locked) : l.Holds (t.linkDown h) := by
  refine linkDown (fun off => a.ofHeads x (by decide) fun on => absurd on off) fun on => ?_
  subst on
  have queue : t.arbiter.queue = s.arbiter.queue := congrArg Arbiter.queue (x .arbiter (by decide))
  have jobs : t.alloc.jobs = s.alloc.jobs := congrArg Allocator.jobs (x .alloc (by decide))
  refine ⟨a.1.of_eq (x .run (by decide)) (x .gates (by decide)),
    ⟨fun k e => apart k e ▸ a.2.sound k, link, fun k => ?_, queue ▸ a.2.entries, jobs ▸ a.2.jobs⟩⟩
  refine (a.2.placed k).congr ?_ (congrArg (fun r : RunController => r.group.getLsbD k.val) (x .run (by decide)))
    (fun _ mem _ => queue ▸ mem) (fun _ mem _ => jobs ▸ mem)
    (congrArg (fun v : Vector BinPort 4 => v[k].frame.isSome) (x .bins (by decide)))
  by_cases e : k = h
  · exact e ▸ state
  · rw [apart k e]

/-- The link becomes `x`, LINK_CHANGE is set, and the head is changed further. -/
theorem setLink_down (a : l.Holds s) {x : LinkState} (unlocked : x ≠ .locked) {f : HeadContext → HeadContext}
    (state : ∀ c, (f c).state = c.state) (link : ∀ c, (f c).link = c.link) :
    l.Holds (((s.setLink h x).onHead h f).linkDown h) := by
  have own : (((s.setLink h x).onHead h f).head h) = f (HeadContext.raiseFlag HeadFlag.linkChange
      { s.head h with link := x }) := by
    rw [onHead_own, State.setLink, State.raiseFlag, onHead_own, onHead_own]
  refine a.severed (((setLink_same h x s)).trans (onHead_same h f _))
    (((onHead_apart h _ s).trans (onHead_apart h _ _)).trans (onHead_apart h f _)) ?_ ?_
  · rw [own, state]
    rfl
  · rw [own, link]
    exact unlocked

theorem loseLink (a : l.Holds s) : l.Holds (s.loseLink h) :=
  a.setLink_down (by simp) (fun _ => rfl) fun _ => rfl

/-! ## A link that comes -/

/-- A link changes while it is not LOCKED. -/
theorem setLink (a : l.Holds s) {x : LinkState} (before : (s.head h).link ≠ .locked) (after : x ≠ .locked) :
    l.Holds (s.setLink h x) := by
  have changed : l.Holds (s.onHead h fun c => { c with link := x }) :=
    a.onHead (fun _ p =>
      have sound := p.sound h
      ⟨fun on => absurd (sound.linked on) before, fun _ => after, fun on => absurd (sound.supplied on) before,
        fun on => absurd (sound.serviced on) before, sound.wakes⟩) (.inl rfl)
  exact changed.raiseFlag h _

/-- The laws of the heads with a link that locks: an OFFLINE head becomes IDLE (R147). -/
theorem lockLink (a : l.Holds s) : l.Holds (s.lockLink h) := by
  refine a.ofHeads (lockLink_same h s) (by decide) fun _ p => ?_
  have head (k : HeadId) : (s.lockLink h).head k = if k = h then { HeadContext.raiseFlag HeadFlag.linkChange
      { s.head h with link := .locked } with
        missRun := 0, state := if (s.head h).state = .offline then .idle else (s.head h).state } else s.head k := by
    unfold State.lockLink State.setLink State.raiseFlag State.setHeadState
    by_cases off : (s.head h).state = .offline <;> by_cases e : k = h
    · subst e; simp [off]
    · simp [off, e]
    · subst e; simp [off, HeadContext.raiseFlag]
    · simp [off, e]
  have x := lockLink_same h s
  have own := (head h).trans (if_pos rfl)
  have other {k : HeadId} (e : k ≠ h) := (head k).trans (if_neg e)
  have queue : (s.lockLink h).arbiter.queue = s.arbiter.queue := congrArg Arbiter.queue (x .arbiter (by decide))
  have jobs : (s.lockLink h).alloc.jobs = s.alloc.jobs := congrArg Allocator.jobs (x .alloc (by decide))
  have bins (k : HeadId) : (s.lockLink h).bin k = s.bin k :=
    congrArg (fun v : Vector BinPort 4 => v[k]) (x .bins (by decide))
  have group (k : HeadId) : (s.lockLink h).inGroup k = s.inGroup k :=
    congrArg (fun r : RunController => r.group.getLsbD k.val) (x .run (by decide))
  refine ⟨fun k => ?_, fun k => ?_, queue ▸ p.entries, jobs ▸ p.jobs⟩ <;> by_cases e : k = h
  · subst e
    rw [own]
    refine ⟨fun _ => rfl, fun off => ?_, fun _ => rfl, fun _ => rfl, fun wake => ?_⟩
    · simp only at off
      split at off
      · cases off
      · contradiction
    · obtain ⟨standby, slot⟩ := (p.sound k).wakes wake
      exact ⟨by simp [standby], slot⟩
  · exact other e ▸ p.sound k
  · subst e
    by_cases off : (s.head k).state = .offline
    · obtain ⟨away, unqueued, jobless, frame⟩ := (p.placed k).free (holding_of off)
      refine .of_free (holding_of (x := .idle) ?_) ((group k).trans away) (queue ▸ unqueued) (jobs ▸ jobless)
        ((congrArg (fun b : BinPort => b.frame.isSome) (bins k)).trans frame)
      rw [own, if_pos off]
    · refine (p.placed k).congr ?_ (group k) (fun _ mem _ => queue ▸ mem) (fun _ mem _ => jobs ▸ mem) (by rw [bins])
      rw [own, if_neg off]
  · exact (p.placed k).congr (by rw [other e]) (group k) (fun _ mem _ => queue ▸ mem) (fun _ mem _ => jobs ▸ mem)
      (by rw [bins])

theorem placedMark (a : l.Holds s) : l.Holds (s.placedMark h) := by
  unfold State.placedMark
  split
  · have counted : l.Holds (s.onHead h fun c => { c with markRun := c.markRun + 1, awaitMark := false }) :=
      a.onHead_plain rfl rfl rfl rfl rfl
    exact counted.lockLink.ite counted
  · exact a.onHead_plain rfl rfl rfl rfl rfl
  · exact a

theorem misplacedMark (a : l.Holds s) (p : Fin 16) : l.Holds (s.misplacedMark h p) := by
  unfold State.misplacedMark
  refine a.placedMark.ite ?_
  split
  · split
    · exact a.onHead_plain rfl rfl rfl rfl rfl
    · exact a.onHead_plain rfl rfl rfl rfl rfl
  · have missed : l.Holds (s.onHead h fun c => { c with missRun := c.missRun + 1, awaitMark := false }) :=
      a.onHead_plain rfl rfl rfl rfl rfl
    exact missed.loseLink.ite missed
  · exact a

theorem lossOfSignal (a : l.Holds s) : l.Holds (s.lossOfSignal h) := by
  unfold State.lossOfSignal
  split
  · exact a.onHead_plain rfl rfl rfl rfl rfl
  · exact a.loseLink.ite a
  · exact a

theorem enableLink (a : l.Holds s) (changed : Bool) : l.Holds (s.enableLink h changed) := by
  unfold State.enableLink
  split
  · rename_i off
    exact (a.setLink (by simp [off]) (by simp)).onHead_plain rfl rfl rfl rfl rfl
  · exact (a.onHead_plain rfl rfl rfl rfl rfl).ite a
  · exact a

theorem disableLink (a : l.Holds s) : l.Holds (s.disableLink h) := by
  unfold State.disableLink
  split
  · exact a
  · exact a.setLink_down (by simp) (fun _ => rfl) fun _ => rfl

theorem configureLink (a : l.Holds s) (on los : Bool) (mode : AlignMode) : l.Holds (s.configureLink h on los mode) := by
  have stored : l.Holds (s.onHead h fun c => { c with linkEnable := on, losDetect := los, alignMode := mode }) :=
    a.onHead_plain rfl rfl rfl rfl rfl
  exact (stored.enableLink _).ite stored.disableLink

end Law.Holds
end Sys2Proof.Machine
end

section
/-!
The laws under the bin interface, the engine, HEAD_RESET and the resets of the part (R59, R66 to R80, R160, R165 to
R169, R183, R184).
-/

namespace Sys2Proof.Machine

namespace State

variable {h : HeadId} {s t : State}

/-! ## The bin interface -/

/-- A head in ANALYSIS without a job gets its bin frame, if it gets one, with BIN_WAIT (R165). -/
theorem Posted.loadFrame (p : s.Posted) (state : (s.head h).state = .analysis)
    (jobless : ∀ j ∈ s.alloc.jobs, j.head ≠ h) : (s.loadFrame h).Posted := by
  unfold State.loadFrame
  split
  · exact p
  · rename_i d _
    split
    · exact p
    · rename_i plan _
      have own := onHead_own h (fun c => { c with state := .binWait })
        (s.onBin h (BinPort.loaded (binFrame h plan d.runNumber s.sites[h])))
      have other {k : HeadId} (e : k ≠ h) (u : State) := onHead_apart h (fun c => { c with state := .binWait }) u k e
      refine ⟨fun k => ?_, fun k => ?_, p.entries, p.jobs⟩ <;> by_cases e : k = h
      · subst e
        exact own ▸ (p.sound k).withState .binWait ((p.sound k).awake (by simp [state])) (fun on => absurd on (by decide))
          (fun off => by cases off)
      · exact (other e _).symm ▸ p.sound k
      · subst e
        have now := congrArg HeadContext.state own
        have away := (p.placed k).outside (by simp [state])
        refine ⟨iff_of_false (by rw [setHeadState, now]; simp) (Bool.eq_false_iff.mp away),
          fun d mem same => ?_, fun j mem same => absurd same (jobless j mem), iff_of_true ?_ now⟩
        · exact absurd (state.symm.trans ((p.placed k).queued d mem same)) (by simp)
        · exact (congrArg (fun b : BinPort => b.frame.isSome) ((onBin_bin ..).trans (if_pos rfl))).trans rfl
      · exact (p.placed k).congr (congrArg HeadContext.state (other e _)) rfl (fun _ mem _ => mem) (fun _ mem _ => mem)
          (congrArg (fun b : BinPort => b.frame.isSome) ((onBin_bin ..).trans (if_neg e)))

theorem leaveBinWait_head (h k : HeadId) (x : BitVec 10) (s : State) : (s.leaveBinWait h x).head k =
    if k = h then { HeadContext.raiseFlag x (s.head h) with state := s.restState h } else s.head k := by
  have used := dropUse_same (s.siteSlot h) (((s.onBin h BinPort.withdrawn).raiseFlag h x).releaseSites h)
  unfold leaveBinWait setHeadState
  rw [onHead_head]
  split
  · rw [used.head (by decide)]
    exact congrArg (fun c : HeadContext => { c with state := s.restState h }) (onHead_own h (HeadContext.raiseFlag x) _)
  · rename_i e
    rw [used.head (by decide)]
    exact onHead_apart h (HeadContext.raiseFlag x) _ k e

theorem leaveBinWait_bin (h k : HeadId) (x : BitVec 10) (s : State) :
    (s.leaveBinWait h x).bin k = if k = h then (s.bin h).withdrawn else s.bin k :=
  (congrArg (fun v : Vector BinPort 4 => v[k]) (dropUse_same (s.siteSlot h)
    (((s.onBin h BinPort.withdrawn).raiseFlag h x).releaseSites h) .bins (by decide))).trans (onBin_bin ..)

/-- A head rests in a state that its link allows (R167). -/
theorem restState_linked (h : HeadId) (s : State) : ((s.restState h).onLink = true → (s.head h).link = .locked) ∧
    (s.restState h = .offline → (s.head h).link ≠ .locked) := by
  unfold restState
  split
  · rename_i link
    exact ⟨fun _ => link, fun off => by cases off⟩
  · rename_i link
    exact ⟨fun on => absurd on (by decide), fun _ => link⟩

/-- The frame of a head goes with its BIN_WAIT (R167, R169). -/
theorem Posted.leaveBinWait (p : s.Posted) (state : (s.head h).state = .binWait) (x : BitVec 10) :
    (s.leaveBinWait h x).Posted := by
  have same := leaveBinWait_same h x s
  have own := (leaveBinWait_head h h x s).trans (if_pos rfl)
  have other {k : HeadId} (e : k ≠ h) := (leaveBinWait_head h k x s).trans (if_neg e)
  have queue : (s.leaveBinWait h x).arbiter.queue = s.arbiter.queue := congrArg Arbiter.queue (same .arbiter (by decide))
  have jobs : (s.leaveBinWait h x).alloc.jobs = s.alloc.jobs := congrArg Allocator.jobs (same .alloc (by decide))
  have group (k : HeadId) : (s.leaveBinWait h x).inGroup k = s.inGroup k :=
    congrArg (fun r : RunController => r.group.getLsbD k.val) (same .run (by decide))
  refine ⟨fun k => ?_, InPlace.freed p.placed ((holding_of (congrArg HeadContext.state own)).trans (restState_free h s))
    (fun k e => by rw [other e]) (fun k _ => group k) ((group h).trans ((p.placed h).outside (by simp [state])))
    (fun e mem => ⟨fun own => ?_, queue ▸ mem⟩) (fun j mem => ⟨?_, jobs ▸ mem⟩)
    (fun k e => (leaveBinWait_bin h k x s).trans (if_neg e)) ?_, queue ▸ p.entries, jobs ▸ p.jobs⟩
  · by_cases e : k = h
    · subst e
      obtain ⟨linked, offline⟩ := restState_linked k s
      exact own ▸ ((p.sound k).withState _ ((p.sound k).awake (by simp [state])) linked offline).congr rfl rfl rfl rfl rfl
    · exact other e ▸ p.sound k
  · exact absurd (state.symm.trans ((p.placed h).queued e (queue ▸ mem) own)) (by simp)
  · exact (p.placed h).jobless (by simp [state]) j (jobs ▸ mem)
  · rw [leaveBinWait_bin, if_pos rfl]
    rfl

/-! ## HEAD_RESET -/

theorem makeDecision_group (s : State) : s.makeDecision.run.group = s.run.group := by
  unfold makeDecision
  split
  · rfl
  · rename_i lvl below _
    have parked : SameBut [.sites, .wire] s (s.forHeads s.run.group fun h =>
        parkSites (below.length + 1) (lvl.passCount + 1) (s.matchedSites lvl h) h) :=
      forHeads_same (fun h t => parkSites_same _ _ _ h t) _ _
    have decided := decideLevel_same (s.parkedLevel lvl) below (s.forHeads s.run.group fun h =>
      parkSites (below.length + 1) (lvl.passCount + 1) (s.matchedSites lvl h) h)
    show (State.run (decideLevel _ _ _)).group = _
    rw [decided .run (by decide), parked .run (by decide)]

/-- The effect of a drop on the run brings no head into the group (R110, R126). -/
theorem afterDrop_outside (away : s.inGroup h = false) : s.afterDrop.inGroup h = false := by
  have same {t : State} (group : t.run.group = s.run.group) : t.inGroup h = false := by
    rw [inGroup, group]
    exact away
  unfold afterDrop
  split
  · exact same (abortRun_quiet _ s).group
  · split
    · split
      · exact same (makeDecision_group s)
      · exact away
    · split
      · exact BitVec.getLsbD_zero
      · exact away
    · exact away

/-- A head that has been dropped is not in the group (R109). -/
theorem dropHead_outside (h : HeadId) (c : AbortCause) (s : State) : (s.dropHead h c).inGroup h = false := by
  unfold dropHead
  split
  · refine afterDrop_outside ((congrArg (fun r : RunController => r.group.getLsbD h.val) (removeHead_run h c s)).trans
      ((getLsbD_without ..).trans ?_))
    simp
  · rename_i out
    exact Bool.eq_false_iff.mpr out

section
variable (h : HeadId) (s : State)

theorem resetSupply_apart : Apart h s (s.resetSupply h) :=
  (Apart.refl h s).ite ((((onHead_apart h _ s).trans ((sendHead_same h _ _).apart (by decide) h))).trans
    (onHead_apart h _ _))

theorem resetLink_apart : Apart h s (s.resetLink h) := by
  unfold resetLink
  split
  · exact onHead_apart h _ s
  · exact ((onHead_apart h _ s).trans (onHead_apart h _ _)).trans (onHead_apart h _ _)
  · exact onHead_apart h _ s
  · exact .refl h s

theorem resetHeadState_apart : Apart h s (s.resetHeadState h) := by
  unfold resetHeadState
  split
  · exact .refl h s
  · exact (onHead_apart h _ s).trans (onHead_apart h _ _)
  · exact onHead_apart h _ s

theorem resetContext_apart : Apart h s (resetContext h s) :=
  (((onHead_apart h _ s).trans (resetSupply_apart h _)).trans (resetLink_apart h _)).trans (resetHeadState_apart h _)

end

/-- Soundness under one change of the head. -/
theorem onHead_sound {f : HeadContext → HeadContext} (sound : (f (s.head h)).Sound) :
    ((s.onHead h f).head h).Sound := by rwa [onHead_own]

theorem clearSlot_sound (a : (s.head h).Sound) : ((s.clearSlot h).head h).Sound :=
  onHead_sound ⟨a.linked, a.offline, a.supplied, fun some_ => absurd some_ (by simp), fun some_ => absurd some_ (by simp)⟩

theorem issueService_own (h : HeadId) (op : ServiceOp) (o : ServiceOrigin) (s : State) :
    (s.issueService h op o).head h = { s.head h with
      serviceNumber := (s.head h).serviceNumber + 1
      slot := some ⟨op, o, (s.head h).serviceNumber + 1, op.timeout⟩ } := by
  rw [issueService_eq]
  exact onHead_own h _ s

/-- The INTERNAL SUPPLY_OFF goes down a LOCKED link (R160, R151). -/
theorem resetSupply_sound (a : (s.head h).Sound) : ((s.resetSupply h).head h).Sound := by
  unfold resetSupply
  split
  · exact a
  · rename_i on
    have link := a.supplied on
    refine onHead_sound ?_
    rw [issueService_own]
    exact ⟨a.linked, a.offline, fun _ => link, fun _ => link, fun wake => ⟨(a.wakes wake).1, rfl⟩⟩

theorem resetLink_sound (a : (s.head h).Sound) : ((s.resetLink h).head h).Sound := by
  unfold resetLink
  split
  · exact onHead_sound (a.congr rfl rfl rfl rfl rfl)
  · rename_i lost
    have unlocked : (s.head h).link ≠ .locked := by simp [lost]
    have seeks : HeadContext.Sound { s.head h with link := .seeking } :=
      ⟨fun on => absurd (a.linked on) unlocked, fun _ => by simp, fun on => absurd (a.supplied on) unlocked,
        fun on => absurd (a.serviced on) unlocked, a.wakes⟩
    refine onHead_sound ?_
    rw [setLink, raiseFlag, onHead_own, onHead_own]
    exact seeks.congr rfl rfl rfl rfl rfl
  · exact onHead_sound (a.congr rfl rfl rfl rfl rfl)
  · exact a

/-- The head state row of HEAD_RESET (R160). -/
theorem resetHeadState_sound (a : (s.head h).Sound) : ((s.resetHeadState h).head h).Sound := by
  unfold resetHeadState
  split
  · exact a
  · rename_i waking
    have stands := a.withState .standby (a.awake (by simp [waking]))
      (fun _ => a.linked (by simp [waking, HeadState.onLink])) fun off => by cases off
    refine onHead_sound ?_
    rw [setHeadState, onHead_own]
    split
    · exact stands.congr rfl rfl rfl rfl rfl
    · exact stands
  · rename_i apart _
    obtain ⟨linked, offline⟩ := restState_linked h s
    exact onHead_sound (a.withState _ (a.awake apart) linked offline)

theorem resetContext_sound (a : (s.head h).Sound) : ((resetContext h s).head h).Sound :=
  resetHeadState_sound (resetLink_sound (resetSupply_sound (clearSlot_sound a)))

theorem resetParts_same (h : HeadId) (s : State) :
    SameBut [.store, .arbiter, .alloc, .bins, .capture, .sites, .heads, .wire] s (s.resetParts h) :=
  ((leaveQueue_same h s).comp (clearParts_same _ h _) (k := [.store, .arbiter, .alloc, .bins, .capture, .sites])
    (by decide) (by decide)).comp (resetContext_same h _) (by decide) (by decide)

theorem resetParts_alloc (h : HeadId) (s : State) : (s.resetParts h).alloc = (s.abandonJob h).alloc := by
  refine (resetContext_same h (clearParts (s.head h).enableSet h (leaveQueue h s)) .alloc (by decide)).trans ?_
  have left : (leaveQueue h s).alloc = s.alloc := leaveQueue_same h s .alloc (by decide)
  show ((leaveQueue h s).abandonJob h).alloc = _
  simp only [abandonJob, onAlloc_alloc, left]

/-- HEAD_RESET of a head outside the group: no other block knows it after that (R160). -/
theorem Posted.resetParts (p : s.Posted) (away : s.inGroup h = false) : (s.resetParts h).Posted := by
  rw [resetParts_eq]
  have left := leaveQueue_same h s
  have cleared := clearParts_same (s.head h).enableSet h (leaveQueue h s)
  have same := resetContext_same h (clearParts (s.head h).enableSet h (leaveQueue h s))
  have head (k : HeadId) : (clearParts (s.head h).enableSet h (leaveQueue h s)).head k = s.head k :=
    (cleared.head (by decide) k).trans (left.head (by decide) k)
  have others {k : HeadId} (e : k ≠ h) := (resetContext_apart h _ k e).trans (head k)
  have queue := (congrArg Arbiter.queue ((same .arbiter (by decide)).trans (cleared .arbiter (by decide)))).trans
    (leaveQueue_queue h s)
  have jobs : _ = s.alloc.jobs.filter fun j => j.head != h := (congrArg Allocator.jobs
    ((congrArg State.alloc (resetParts_eq h s)).symm.trans (resetParts_alloc h s))).trans rfl
  have bins (k : HeadId) : (resetContext h (clearParts (s.head h).enableSet h (leaveQueue h s))).bin k =
      if k = h then (s.bin h).withdrawn else s.bin k :=
    (congrArg (fun v : Vector BinPort 4 => v[k]) (same .bins (by decide))).trans ((onBin_bin h k _ _).trans
      (by rw [show ((leaveQueue h s).abandonJob h).bin = s.bin from
        funext fun k => congrArg (fun v : Vector BinPort 4 => v[k]) (left .bins (by decide))]))
  have group (k : HeadId) : (resetContext h (clearParts (s.head h).enableSet h (leaveQueue h s))).inGroup k =
      s.inGroup k := congrArg (fun r : RunController => r.group.getLsbD k.val)
    ((same .run (by decide)).trans ((cleared .run (by decide)).trans (left .run (by decide))))
  refine ⟨fun k => ?_, InPlace.freed p.placed (resetContext_holding h _) (fun k e => by rw [others e])
    (fun k _ => group k) ((group h).trans away) (fun e mem => ?_) (fun j mem => ?_)
    (fun k e => (bins k).trans (if_neg e)) ?_, ?_, ?_⟩
  · by_cases e : k = h
    · subst e
      exact resetContext_sound ((head k).symm ▸ p.sound k)
    · exact others e ▸ p.sound k
  · rw [queue, List.mem_filter] at mem
    exact ⟨by simpa using mem.2, mem.1⟩
  · rw [jobs, List.mem_filter] at mem
    exact ⟨by simpa using mem.2, mem.1⟩
  · rw [bins, if_pos rfl]
    rfl
  · rw [queue]
    exact p.entries.sublist (List.filter_sublist.map _)
  · rw [jobs]
    exact p.jobs.sublist (List.filter_sublist.map _)

/-- The engine goes on unless its job is abandoned (R80). -/
theorem abandonJob_serves (serves : s.alloc.Serves) (h : HeadId) : (s.abandonJob h).alloc.Serves := by
  intro e own
  simp only [abandonJob, onAlloc_alloc] at own ⊢
  split at own
  · cases own
  · rename_i other
    obtain ⟨job, rest, first, within⟩ := serves e own
    rw [first] at other ⊢
    refine ⟨job, rest.filter fun j => j.head != h, ?_, within⟩
    rw [List.filter_cons, if_pos]
    simpa using other

end State
end Sys2Proof.Machine
end

section
/-!
The laws under the rest of the operations: the bin interface, the analysis engine, fail words, HEAD_RESET and the
resets of the part (R5 to R22, R66 to R80, R160, R162 to R169, R183, R184).
-/

namespace Sys2Proof.Machine

/-- So many steps used keep the job in service within its budget (R73). -/
def Allocator.Affords (used : Nat) (a : Allocator) : Prop :=
  ∀ e job rest, a.engine = some e → a.jobs = job :: rest → e.used ≤ job.budget.toNat → used ≤ job.budget.toNat

theorem Allocator.Affords.of_budget {a : Allocator} {e : Engine} {job : Job} {rest : List Job} {used : Nat}
    (engine : a.engine = some e) (jobs : a.jobs = job :: rest)
    (within : e.used ≤ job.budget.toNat → used ≤ job.budget.toNat) : a.Affords used := by
  intro d first others own queue spent
  obtain rfl := Option.some.inj (engine.symm.trans own)
  obtain ⟨rfl, _⟩ := List.cons.inj (jobs.symm.trans queue)
  exact within spent

namespace State

variable {h : HeadId} {s : State}

/-- The allocator changes, but its jobs stay. -/
theorem Posted.onAlloc (p : s.Posted) {f : Allocator → Allocator} (jobs : (f s.alloc).jobs = s.alloc.jobs) :
    (s.onAlloc f).Posted :=
  ⟨p.sound, fun h => (p.placed h).congr rfl rfl (fun _ mem _ => mem) (fun _ mem _ => jobs ▸ mem) rfl, p.entries,
    jobs.symm ▸ p.jobs⟩

/-- A head in ANALYSIS without a job gets one (R63, R64). -/
theorem Posted.addJob (p : s.Posted) {j : Job} (state : (s.head j.head).state = .analysis)
    (jobless : ∀ d ∈ s.alloc.jobs, d.head ≠ j.head) : (s.addJob j).Posted := by
  refine ⟨p.sound, fun h => ⟨(p.placed h).grouped, (p.placed h).queued, fun d mem own => ?_, (p.placed h).frames⟩,
    p.entries, ?_⟩
  · rcases List.mem_append.mp mem with mem | mem
    · exact (p.placed h).analysed d mem own
    · obtain rfl := List.mem_singleton.mp mem
      exact own ▸ state
  · show ((s.alloc.jobs ++ [j]).map Job.head).Nodup
    rw [List.map_append, List.nodup_append]
    refine ⟨p.jobs, List.nodup_singleton _, fun x mem y new same => ?_⟩
    obtain ⟨d, old, own⟩ := List.mem_map.mp mem
    exact jobless d old ((own.trans same).trans (List.mem_singleton.mp new))

/-- The oldest job leaves the queue: its head is in ANALYSIS without a job (R79). -/
theorem Posted.endJob {job : Job} {rest : List Job} (p : s.Posted) (jobs : s.alloc.jobs = job :: rest) :
    (s.onAlloc fun a => { jobs := a.jobs.tail, engine := none }).Posted ∧
      (s.head job.head).state = .analysis ∧ ∀ j ∈ s.alloc.jobs.tail, j.head ≠ job.head := by
  have nodup := p.jobs
  rw [jobs, List.map_cons, List.nodup_cons] at nodup
  refine ⟨⟨p.sound, fun h => (p.placed h).congr rfl rfl (fun _ mem _ => mem) (fun j mem _ => List.mem_of_mem_tail mem) rfl,
    p.entries, ?_⟩, (p.placed job.head).analysed job (jobs ▸ List.mem_cons_self) rfl, fun j mem own => ?_⟩
  · show (s.alloc.jobs.tail.map Job.head).Nodup
    rw [jobs]
    exact nodup.2
  · rw [jobs] at mem
    exact nodup.1 (List.mem_map.mpr ⟨j, mem, own⟩)

/-- A bin port changes and keeps its frame. -/
theorem Posted.onBin (p : s.Posted) {f : BinPort → BinPort} (frame : (f (s.bin h)).frame.isSome = (s.bin h).frame.isSome) :
    (s.onBin h f).Posted := by
  refine ⟨p.sound, fun k => (p.placed k).congr rfl rfl (fun _ mem _ => mem) (fun _ mem _ => mem) ?_, p.entries, p.jobs⟩
  rw [onBin_bin]
  split
  · rename_i e
    exact e ▸ frame
  · rfl

end State

namespace Law.Holds

open State

variable {l : Law} {s t : State} {h : HeadId}

/-! ## The bin interface -/

theorem loadFrame (a : l.Holds s) (state : l = .heads → (s.head h).state = .analysis)
    (jobless : l = .heads → ∀ j ∈ s.alloc.jobs, j.head ≠ h) : l.Holds (s.loadFrame h) :=
  a.ofHeads (loadFrame_same h s) (by decide) fun on p => p.loadFrame (state on) (jobless on)

theorem leaveBinWait (a : l.Holds s) (state : l = .heads → (s.head h).state = .binWait) (x : BitVec 10) :
    l.Holds (s.leaveBinWait h x) :=
  a.ofHeads (leaveBinWait_same h x s) (by decide) fun on p => p.leaveBinWait (state on) x

theorem onBin (a : l.Holds s) {f : BinPort → BinPort} (frame : (f (s.bin h)).frame.isSome = (s.bin h).frame.isSome) :
    l.Holds (s.onBin h f) :=
  a.ofHeads (onBin_same h f s) (by decide) fun _ p => p.onBin frame

theorem onLines (a : l.Holds s) (h : HeadId) (f : HandlerLines → HandlerLines) : l.Holds (s.onLines h f) :=
  a.same (onLines_same h f s) (by decide)

/-- A head with a bin frame is BIN_WAIT (R161). -/
theorem waits (a : l.Holds s) {frame : List Byte} (some_ : (s.bin h).frame = some frame) (on : l = .heads) :
    (s.head h).state = .binWait :=
  ((a.posted on).placed h).frames.mp (by rw [some_]; rfl)

/-- An edge of BCLK; the one that completes the last cycle delivers the frame (R163, R166, R167). -/
theorem bclkTo (a : l.Holds s) (level : LineLevel) : l.Holds (s.bclkTo h level) := by
  unfold State.bclkTo
  split
  · exact a
  · have moved := a.onLines h fun x => { x with bclk := level }
    simp only
    split
    · exact moved
    · rename_i frame some_
      split
      · exact moved.onBin rfl
      · split
        · have done : l.Holds ((s.onLines h fun x => { x with bclk := level }).onBin h (BinPort.complete frame)) :=
            moved.onBin rfl
          exact (done.leaveBinWait (a.waits some_) _).ite done
        · exact moved

/-! ## The analysis engine -/

/-- The engine goes on with the job in service (R66, R73). -/
theorem mapEngine (a : l.Holds s) {f : Engine → Engine}
    (within : ∀ e, s.alloc.engine = some e → s.alloc.Affords (f e).used) :
    l.Holds (s.onAlloc fun b => { b with engine := b.engine.map f }) := by
  refine a.of_laws id (fun serves e own => ?_) (fun r => r.of_eq rfl rfl) fun _ p => p.onAlloc rfl
  obtain ⟨d, engine, rfl⟩ := Option.map_eq_some_iff.mp own
  obtain ⟨job, rest, jobs, spent⟩ := serves d engine
  exact ⟨job, rest, jobs, within d engine d job rest engine jobs spent⟩

theorem resolveSite (a : l.Holds s) {used : Nat} (within : s.alloc.Affords used) (h : HeadId) (i : SiteId)
    (o : SiteOutcome) (list : Option (List RepairLine)) : l.Holds (s.resolveSite h i used o list) :=
  (a.onSite h i (SiteContext.resolve o list)).mapEngine fun _ _ => within

theorem keepWork (a : l.Holds s) {used : Nat} (within : s.alloc.Affords used) (i : SiteId) (w : Work) :
    l.Holds (s.keepWork i used w) := a.mapEngine fun _ _ => within

theorem spendAll (a : l.Holds s) : l.Holds s.spendAll :=
  a.mapEngine fun _ engine _ _ _ own _ spent => Option.some.inj (engine.symm.trans own) ▸ spent

theorem reportJob (a : l.Holds s) (job : Job) (resolved incomplete used : Nat) :
    l.Holds (s.reportJob job resolved incomplete used) := by
  unfold State.reportJob
  split
  · exact a.answer _ _ _ _
  · exact (a.queueNotice _).ite a

/-- A job joins behind the jobs of other heads (R64). -/
theorem addJob (a : l.Holds s) {j : Job}
    (state : (s.head j.head).state = .analysis) (jobless : ∀ d ∈ s.alloc.jobs, d.head ≠ j.head) :
    l.Holds (s.addJob j) := by
  refine a.of_laws id (fun serves e own => ?_) (fun r => r.of_eq rfl rfl) fun _ p => p.addJob state jobless
  obtain ⟨job, rest, jobs, within⟩ := serves e own
  exact ⟨job, rest ++ [j], congrArg (· ++ [j]) jobs, within⟩

/-- The job in service ends (R79). -/
theorem endJob (a : l.Holds s) {job : Job} {rest : List Job} (jobs : s.alloc.jobs = job :: rest) (e : Engine) :
    l.Holds (s.endJob job e) := by
  have left : l.Holds (s.onAlloc fun a => { jobs := a.jobs.tail, engine := none }) :=
    a.of_laws id (fun _ _ own => by cases own) (fun r => r.of_eq rfl rfl) fun _ p => (p.endJob jobs).1
  exact ((left.loadFrame (fun on => ((a.posted on).endJob jobs).2.1) fun on => ((a.posted on).endJob jobs).2.2).ite
    left).reportJob _ _ _ _

section
variable {job : Job} {rest : List Job} {e : Engine}

theorem exhausted (a : l.Holds s) (jobs : s.alloc.jobs = job :: rest) (engine : s.alloc.engine = some e) (i : SiteId)
    (before : Work) : l.Holds (s.exhausted job e i before) :=
  ((a.resolveSite (.of_budget engine jobs id) _ _ _ _).spendAll).ite ((a.onSite _ _ _).endJob jobs e)

/-- A move that the steps left can pay stays within the budget (R73). -/
theorem affords_of_stepsLeft {cost : Nat} (jobs : s.alloc.jobs = job :: rest) (engine : s.alloc.engine = some e)
    (paid : cost ≤ stepsLeft job e) : s.alloc.Affords (e.used + cost) := by
  refine .of_budget engine jobs fun spent => ?_
  unfold stepsLeft at paid
  split at paid <;> omega

theorem allocate (a : l.Holds s) (jobs : s.alloc.jobs = job :: rest) (engine : s.alloc.engine = some e) (i : SiteId)
    (w : Work) : l.Holds (s.allocate job e i w) := by
  have exhausted := a.exhausted jobs engine i
  unfold State.allocate
  simp only
  split
  · split
    · rename_i paid
      exact a.keepWork (affords_of_stepsLeft jobs engine paid) _ _
    · exact exhausted _
  · split
    · rename_i paid
      exact a.resolveSite (affords_of_stepsLeft jobs engine paid) _ _ _ _
    · exact exhausted _
  · exact a.resolveSite (.of_budget engine jobs id) _ _ _ _

theorem takeSite (a : l.Holds s) (jobs : s.alloc.jobs = job :: rest) (engine : s.alloc.engine = some e) (i : SiteId) :
    l.Holds (s.takeSite job e i) := by
  have resolved := a.resolveSite (.of_budget engine jobs id) job.head i
  have allocated := a.allocate jobs engine i
  unfold State.takeSite
  simp only
  split
  · exact resolved _ _
  · split
    · exact allocated _
    · split
      · exact allocated _
      · exact resolved _ _

end

/-- One move of the engine (R66). -/
theorem engineMove (a : l.Holds s) : l.Holds s.engineMove := by
  unfold State.engineMove
  split
  · rename_i engine jobs
    unfold State.moveJob
    split
    · exact a.endJob jobs _
    · split
      · exact a.allocate jobs engine _ _
      · exact a.takeSite jobs engine _
  · exact a

/-! ## Fail words -/

theorem onCapture (a : l.Holds s) (f : CaptureUnit → CaptureUnit) : l.Holds (s.onCapture f) :=
  a.same (onCapture_same f s) (by decide)

theorem watchCheck (a : l.Holds s) (w : FailWord) : l.Holds (watchCheck w s) := by
  have marked := a.onCapture (CaptureUnit.markHits w)
  have noticed := (marked.queueNotice (.watchHit w.head w.site w.bank w.row w.column (matchingWatches w s))).ite
    (c := s.port.config.watchNotices = true) marked
  exact a.ite ((noticed.onCapture _).ite noticed)

theorem failLookup (a : l.Holds s) (w : FailWord) : l.Holds (s.failLookup w) := by
  unfold State.failLookup
  split
  · exact (a.onSite _ _ _).onCapture _
  · unfold failInRegion
    split
    · exact a
    · exact a.onSite _ _ _
    · exact a.ite (a.same (analysePath_same _ _ s) (by decide))

theorem failTaken (a : l.Holds s) (w : FailWord) : l.Holds (s.failTaken w) :=
  ((a.onSite _ _ _).watchCheck w).failLookup w

/-! ## HEAD_RESET -/

/-- The rest of HEAD_RESET, of a head outside the group (R160). -/
theorem resetParts (a : l.Holds s) (away : l = .heads → s.inGroup h = false) : l.Holds (s.resetParts h) := by
  have same := resetParts_same h s
  have port : (s.resetParts h).port = s.port := same .port (by decide)
  have run : (s.resetParts h).run = s.run := same .run (by decide)
  have gates : (s.resetParts h).gates = s.gates := same .gates (by decide)
  cases l with
  | port => exact Eq.subst (motive := PortLaws) port.symm a
  | engine => exact Eq.subst (motive := Allocator.Serves) (resetParts_alloc h s).symm (abandonJob_serves a h)
  | run => exact RunLaws.of_eq a run gates
  | heads => exact ⟨a.1.of_eq run gates, a.2.resetParts (away rfl)⟩

theorem resetHead (a : l.Holds s) (q : Request) (h : HeadId) : l.Holds (s.resetHead q h) := by
  have dropped : l.Holds (s.dropForReset h) := (a.dropHead h _).ite a
  have away (on : l = .heads) : (s.dropForReset h).inGroup h = false := by
    unfold dropForReset
    split
    · exact dropHead_outside h _ s
    · rename_i apart
      exact ((a.posted on).placed h).outside apart
  have answered : l.Holds (((s.dropForReset h).resetParts h).answerAbandoned ((s.dropForReset h).jobOf h)) := by
    unfold answerAbandoned
    split
    · exact (dropped.resetParts away).answer _ _ _ _
    · exact dropped.resetParts away
  exact (answered.answerCancelled h _ _).answerOk q _

/-! ## Resets of the part -/

/-- The blocks but the port take their power-on values, in which every head is OFFLINE without a link (R183). -/
theorem resetBlocks (a : l.Holds s) : l.Holds s.resetBlocks := by
  refine a.of_laws id (fun _ _ own => by cases own) (fun _ => runLaws_reset.of_eq rfl rfl) fun _ _ => ?_
  refine ⟨fun h => ?_, fun h => .of_free ?_ BitVec.getLsbD_zero (fun _ mem => absurd mem List.not_mem_nil)
    (fun _ mem => absurd mem List.not_mem_nil) (by rw [resetBlocks_bin]; rfl), List.nodup_nil, List.nodup_nil⟩
  · rw [resetBlocks_head]
    exact ⟨fun x => absurd x (by simp [HeadContext.reset, HeadState.onLink]), fun _ => by simp [HeadContext.reset],
      fun x => absurd rfl x, fun x => absurd x (by simp [HeadContext.reset]),
      fun x => absurd x (by simp [HeadContext.reset])⟩
  · exact holding_of (x := .offline) (by rw [resetBlocks_head]; rfl)

theorem onPort (a : l.Holds s) {f : ControlPort → ControlPort} (port : PortLaws s.port → PortLaws (f s.port)) :
    l.Holds (s.onPort f) := a.ofPort (onPort_same f s) (by decide) port

theorem powerOn (a : l.Holds s) : l.Holds s.powerOn := a.resetBlocks.onPort fun _ => portLaws_reset

end Law.Holds
end Sys2Proof.Machine
end

section
/-!
How a step ends: what it leaves of the laws of the operations, and what its last operations do for the rest of the
bounds (R177, R158, R66). The transmitter is busy or nothing waits; the events of the step have their notices, or the
step sets none; and the idle engine has taken a job, or the queue is as it was.
-/

namespace Sys2Proof.Machine

/-- A transmitter that is still free has nothing to send (R177). -/
theorem ControlPort.transmit_free {p : ControlPort} (free : p.transmit.sending = none) :
    p.transmit.replies = [] ∧ p.transmit.notices = [] := by
  unfold ControlPort.transmit at free ⊢
  split at free
  · rename_i busy
    exact absurd (busy.symm.trans free) (by simp)
  · have waits : p.nextFrame = none := Option.map_eq_none_iff.mp free
    unfold ControlPort.nextFrame at waits
    split at waits
    · rename_i replies notices
      exact ⟨replies, notices⟩
    · cases waits
    · cases waits
    · split at waits
      · cases waits
      · cases waits
      · split at waits <;> cases waits

/-- With no job in service no job waits (R66). -/
def Allocator.Idle (a : Allocator) : Prop := a.engine = none → a.jobs = []

theorem engineLaws_iff {s : State} : EngineLaws s ↔ s.alloc.Serves ∧ s.alloc.Idle :=
  ⟨fun a => ⟨a.serving, a.idle⟩, fun a => ⟨a.1, a.2⟩⟩

namespace State

/-! ## Operations that set no head event -/

/-- The events that wait for their notices are the same. -/
def Hushed (s t : State) : Prop := ∀ h, (t.head h).raised = (s.head h).raised

/-- No event of a head, and nothing for the engine. -/
structure Calm (s t : State) : Prop where
  hushed : s.Hushed t
  alloc : t.alloc = s.alloc

section
variable {s t u : State} {h : HeadId}

theorem Hushed.refl (s : State) : s.Hushed s := fun _ => rfl

theorem Hushed.trans (a : s.Hushed t) (b : t.Hushed u) : s.Hushed u := fun h => (b h).trans (a h)

theorem Hushed.ite {c : Prop} [Decidable c] (a : s.Hushed t) (b : s.Hushed u) : s.Hushed (if c then t else u) := by
  split <;> assumption

theorem SameBut.hushed {m : List Block} (a : SameBut m s t) (free : Block.heads ∉ m) : s.Hushed t :=
  fun h => congrArg HeadContext.raised (a.head free h)

theorem onHead_hushed (h : HeadId) {f : HeadContext → HeadContext} (s : State)
    (raised : (f (s.head h)).raised = (s.head h).raised) : s.Hushed (s.onHead h f) := by
  intro k
  rw [onHead_head]
  split
  · rename_i e
    exact e ▸ raised
  · rfl

theorem Calm.refl (s : State) : s.Calm s := ⟨.refl s, rfl⟩

theorem Calm.trans (a : s.Calm t) (b : t.Calm u) : s.Calm u := ⟨a.hushed.trans b.hushed, b.alloc.trans a.alloc⟩

theorem Calm.ite {c : Prop} [Decidable c] (a : s.Calm t) (b : s.Calm u) : s.Calm (if c then t else u) := by
  split <;> assumption

theorem SameBut.calm {m : List Block} (a : SameBut m s t) (free : ∀ b ∈ [Block.heads, .alloc], b ∉ m) : s.Calm t :=
  ⟨a.hushed (free _ (by decide)), a .alloc (free _ (by decide))⟩

theorem onHead_calm (h : HeadId) {f : HeadContext → HeadContext} (s : State)
    (raised : (f (s.head h)).raised = (s.head h).raised) : s.Calm (s.onHead h f) :=
  ⟨onHead_hushed h s raised, rfl⟩

theorem answerOk_calm (q : Request) (f : List Byte) (s : State) : s.Calm (s.answerOk q f) :=
  (answerOk_same q f s).calm (by decide)

theorem pauseFilter_calm (h : HeadId) (s : State) : s.Calm (s.pauseFilter h) :=
  onHead_calm h s (by split <;> rfl)

theorem issueService_calm (h : HeadId) (op : ServiceOp) (o : ServiceOrigin) (s : State) :
    s.Calm (s.issueService h op o) :=
  (onHead_calm h s rfl).trans ((sendHead_same h _ _).calm (by decide))

theorem startSupply_calm (h : HeadId) (on : Bool) (o : ServiceOrigin) (s : State) : s.Calm (s.startSupply h on o) :=
  (issueService_calm h _ o s).trans (onHead_calm h _ rfl)

theorem startWake_calm (h : HeadId) (o : ServiceOrigin) (mark : Bool) (s : State) : s.Calm (s.startWake h o mark) :=
  ((issueService_calm h _ o s).trans (onHead_calm h _ rfl)).trans (onHead_calm h _ (by split <;> rfl))

theorem withdraw_calm (h : HeadId) (x : HeadState) (s : State) : s.Calm (s.withdraw h x) := by
  refine ⟨fun k => ?_, withdraw_same h x s .alloc (by decide)⟩
  rw [withdraw_head]
  split
  · rename_i e
    exact e ▸ rfl
  · rfl

theorem loadFrame_hushed (h : HeadId) (s : State) : s.Hushed (s.loadFrame h) := by
  unfold loadFrame
  split
  · exact .refl s
  · split
    · exact .refl s
    · exact ((onBin_same h _ s).hushed (by decide)).trans (onHead_hushed h _ rfl)

/-! ## The engine sets no head event -/

section
variable (job : Job) (e : Engine) (i : SiteId) (s : State)

theorem endJob_hushed : s.Hushed (s.endJob job e) := by
  have left := (onAlloc_same (fun a => { jobs := a.jobs.tail, engine := none }) s).hushed (by decide)
  exact (((left.trans (loadFrame_hushed _ _)).ite left)).trans ((reportJob_same _ _ _ _ _).hushed (by decide))

theorem exhausted_hushed (w : Work) : s.Hushed (s.exhausted job e i w) :=
  Hushed.ite (((resolveSite_same _ _ _ _ _ s).hushed (by decide)).trans ((spendAll_same _).hushed (by decide)))
    (((onSite_same _ _ _ s).hushed (by decide)).trans (endJob_hushed job e _))

theorem allocate_hushed (w : Work) : s.Hushed (s.allocate job e i w) := by
  have resolved (u : Nat) (o : SiteOutcome) (list : Option (List RepairLine)) :=
    (resolveSite_same job.head i u o list s).hushed (by decide)
  unfold allocate
  simp only
  split
  · exact ((keepWork_same _ _ _ s).hushed (by decide)).ite (exhausted_hushed job e i s _)
  · exact (resolved _ _ _).ite (exhausted_hushed job e i s _)
  · exact resolved _ _ _

theorem takeSite_hushed : s.Hushed (s.takeSite job e i) := by
  have resolved (o : SiteOutcome) (list : Option (List RepairLine)) :=
    (resolveSite_same job.head i e.used o list s).hushed (by decide)
  unfold takeSite
  simp only
  split
  · exact resolved _ _
  · split
    · exact allocate_hushed job e i s _
    · split
      · exact allocate_hushed job e i s _
      · exact resolved _ _

end

theorem engineMove_hushed (s : State) : s.Hushed s.engineMove := by
  unfold engineMove
  split
  · unfold moveJob
    split
    · exact endJob_hushed _ _ s
    · split
      · exact allocate_hushed _ _ _ s _
      · exact takeSite_hushed _ _ _ s
  · exact .refl s

/-! ## The end of a step -/

theorem flushHead_raised (h k : HeadId) (s : State) :
    ((s.flushHead h).head k).raised = if k = h then 0 else (s.head k).raised := by
  have cleared : (((s.onHead h fun c => { c with raised := 0 }).head k).raised) =
      if k = h then 0 else (s.head k).raised := by
    rw [onHead_head]
    split <;> rfl
  unfold flushHead
  simp only
  split
  · exact cleared
  · exact (congrArg HeadContext.raised ((queueNotice_same _ _).head (by decide) k)).trans cleared

/-- No event waits after the HEAD_EVENT notices (R158). -/
theorem flushEvents_raised (k : HeadId) (s : State) : (s.flushEvents.head k).raised = 0 := by
  have each (l : List HeadId) (s : State) : ((l.foldl (fun t h => t.flushHead h) s).head k).raised =
      if k ∈ l then 0 else (s.head k).raised := by
    induction l generalizing s with
    | nil => rfl
    | cons h rest ih =>
      rw [List.foldl_cons, ih, flushHead_raised]
      by_cases e : k = h <;> by_cases m : k ∈ rest <;> simp [e, m]
  exact (each allHeads s).trans (if_pos (mem_allHeads k))

theorem grantCheck_hushed (s : State) : s.Hushed s.grantCheck := by
  unfold grantCheck
  refine Hushed.ite ?_ (.refl s)
  split
  · exact .refl s
  · split
    · intro k
      rw [grantTo_head]
      split <;> rfl
    · exact .refl s

/-- The idle engine takes a job if one waits (R66). -/
theorem startEngine_idle (s : State) : s.startEngine.alloc.Idle := by
  unfold Allocator.Idle startEngine
  rw [onAlloc_alloc]
  split
  · exact fun none_ => by cases none_
  · rename_i waits
    intro none_
    cases jobs : s.alloc.jobs with
    | nil => rfl
    | cons job rest => exact (waits _ _ none_ jobs).elim

/-! ## What a step leaves of the laws -/

/-- A step, or a part of one, keeps the laws of its operations and the rest of the bounds. -/
structure Closes (s t : State) : Prop where
  laws : ∀ l : Law, l.Holds s → l.Holds t
  reported : Reported s → Reported t
  idle : s.alloc.Idle → t.alloc.Idle

theorem Closes.refl (s : State) : s.Closes s := ⟨fun _ => id, id, id⟩

theorem Closes.trans (a : s.Closes t) (b : t.Closes u) : s.Closes u :=
  ⟨fun l x => b.laws l (a.laws l x), fun x => b.reported (a.reported x), fun x => b.idle (a.idle x)⟩

theorem Closes.ite {c : Prop} [Decidable c] (a : s.Closes t) (b : s.Closes u) : s.Closes (if c then t else u) := by
  split <;> assumption

section
variable (laws : ∀ l : Law, l.Holds s → l.Holds t)
include laws

/-- Without the transmitter: nothing new to send. -/
theorem Closes.unsent (calm : s.Calm t) (sending : t.port.sending = s.port.sending)
    (replies : t.port.replies = s.port.replies) (notices : t.port.notices = s.port.notices) : s.Closes t where
  laws := laws
  reported r := ⟨by rw [sending, replies, notices]; exact r.transmitting, fun h => (calm.hushed h).trans (r.events h)⟩
  idle x := calm.alloc.symm ▸ x

theorem Closes.emitted (calm : s.Calm t) : s.Closes t.emit where
  laws l a := (laws l a).emit
  reported r := ⟨ControlPort.transmit_free, fun h => (calm.hushed h).trans (r.events h)⟩
  idle x := (emit_same t .alloc (by decide) : t.emit.alloc = t.alloc) ▸ calm.alloc.symm ▸ x

theorem Closes.served (hushed : s.Hushed t) : s.Closes t.serve where
  laws l a := (laws l a).serve
  reported r := ⟨ControlPort.transmit_free, fun h => (hushed h).trans (r.events h)⟩
  idle _ := startEngine_idle t

theorem Closes.reports (alloc : t.alloc = s.alloc) : s.Closes t.report where
  laws l a := (laws l a).report
  reported _ := ⟨ControlPort.transmit_free, fun h => flushEvents_raised h t⟩
  idle x := (report_same t .alloc (by decide) : t.report.alloc = t.alloc) ▸ alloc.symm ▸ x

theorem Closes.settled : s.Closes t.settle where
  laws l a := (laws l a).settle
  reported _ := ⟨ControlPort.transmit_free, fun h => (grantCheck_hushed t.flushEvents h).trans (flushEvents_raised h t)⟩
  idle _ := startEngine_idle _

theorem Closes.replied (calm : s.Calm t) (q : Request) (f : List Byte) : s.Closes (t.answerOk q f).emit :=
  .emitted (fun l a => (laws l a).answerOk q f) (calm.trans (answerOk_calm q f t))

end

/-- An answer alone. -/
theorem Closes.answered (q : Request) (f : List Byte) (s : State) : s.Closes (s.answerOk q f).emit :=
  .replied (fun _ => id) (.refl s) q f

theorem Closes.refused (q : Request) (st : Status) (s : State) : s.Closes (s.refuse q st).emit :=
  .emitted (fun _ a => a.refuse q st) ((refuse_same q st s).calm (by decide))

/-- A change of a block that no law speaks of, with its answer. -/
theorem Closes.aside {m : List Block} (x : SameBut m s t)
    (free : ∀ b ∈ [Block.port, .alloc, .run, .gates, .heads, .arbiter, .bins], b ∉ m) (q : Request) (f : List Byte) :
    s.Closes (t.answerOk q f).emit := by
  refine .replied (fun _ a => a.same x free) (x.calm fun b mem => free b ?_) q f
  revert b
  decide

end

end State
end Sys2Proof.Machine
end

section
/-!
What the messages of the source, the timers, the tallies, the fail words and the events of a head do when they end
their step (R5 to R19, R93 to R107, R118, R144 to R156, R163 to R168).
-/

namespace Sys2Proof.Machine

/-- A message of the source that ends no run, well-formed or not (R93). -/
def SourceInput.keepsRun : Option SourceInput → Bool
  | some (.decline _) => false
  | some .halted => false
  | _ => true

namespace State

variable {s : State}

/-! ## Messages that set no head event -/

/-- No default but that of TALLY_LATE drops a head (R128). -/
theorem applyDefault_flat {r : Raise} (apart : r.cause ≠ .tallyLate) (s : State) :
    SameBut [.gates, .sites, .wire] s (s.applyDefault r) := by
  have lost : SameBut [.gates, .sites, .wire] s (match r.head, r.site with
      | some h, some i => s.onSite h i (SiteContext.orderCaptureLost s.run.runNumber)
      | _, _ => s) := by
    split
    · exact (onSite_same _ _ _ s).mono (by decide)
    · exact .refl _ s
  unfold applyDefault
  split
  · exact (onGates_same _ s).mono (by decide)
  · exact (sendSource_same _ s).mono (by decide)
  · exact lost
  · exact lost
  · exact .refl _ s
  · exact .refl _ s
  · contradiction

theorem raiseException_flat {r : Raise} (apart : r.cause ≠ .tallyLate) (s : State) :
    SameBut [.run, .gates, .sites, .wire, .port] s (s.raiseException r) := by
  have flagged := onRun_same (RunController.setException r.cause.bit) s
  have default {t : State} (a : SameBut [.run] s t) : SameBut [.run, .gates, .sites, .wire, .port] s (t.applyDefault r) :=
    a.comp (applyDefault_flat apart t) (by decide) (by decide)
  unfold raiseException
  split
  · exact .refl _ s
  · exact .refl _ s
  · exact default (flagged.trans (setMore_same _))
  · exact default flagged
  · exact (default flagged).ite (flagged.comp (holdRun_same r _) (by decide) (by decide))

theorem takeRecord_flat (r : FeedRecord) (s : State) :
    SameBut [.run, .gates, .sites, .wire, .port] s (s.takeRecord r) := by
  have counted : SameBut [.run, .gates, .sites, .wire, .port] s
      ((s.onRun fun c => { c with recordCount := c.recordCount + 1 }).forward r) :=
    (onRun_same _ s).comp (forward_same r _) (by decide) (by decide)
  have overflows := raiseException_flat (r := .plain .gateOverflow) (by simp [Raise.plain])
    ((s.onRun fun c => { c with recordCount := c.recordCount + 1 }).forward r)
  have underflows := raiseException_flat (r := .plain .gateUnderflow) (by simp [Raise.plain])
    ((s.onRun fun c => { c with recordCount := c.recordCount + 1 }).forward r)
  unfold takeRecord
  cases r with
  | block payload => exact counted
  | gateOpen limit => exact counted.trans (((onGates_same _ _).mono (by decide)).ite overflows)
  | gateClose =>
    have closed : SameBut [.run, .gates, .sites, .wire, .port] _
        ((s.onRun fun c => { c with recordCount := c.recordCount + 1 }).forward .gateClose).closePhantom :=
      ((forHeads_same (fun h t => sendHead_same h _ t) _ _).comp (onGates_same _ _) (k := [.wire, .gates]) (by decide)
        (by decide)).comp (sendSource_same _ _) (by decide) (by decide)
    refine counted.trans (closed.ite ?_)
    split
    · exact underflows
    · exact (onGates_same _ _).comp (startTally_same _ _) (by decide) (by decide)
  | endRecord => exact counted.trans ((onRun_same _ _).comp (startTally_same _ _) (by decide) (by decide))

theorem arriveRecord_flat (r : FeedRecord) (s : State) :
    SameBut [.run, .gates, .sites, .wire, .port] s (s.arriveRecord r) := by
  have fault (f : RunFault) : SameBut [.run, .gates, .sites, .wire, .port] s (s.feedFault f) :=
    (feedFault_same f s).mono (by decide)
  unfold arriveRecord
  split
  · exact (setPartFlag_same _ s).mono (by decide)
  · exact fault _
  · exact takeRecord_flat r s
  · exact fault _
  · exact fault _
  · exact ((onRun_same _ s).mono (by decide)).ite (fault _)
  · exact .refl _ s

theorem sourceMessage_flat {m : Option SourceInput} (mild : SourceInput.keepsRun m = true) (s : State) :
    SameBut [.run, .gates, .sites, .wire, .port] s (s.sourceMessage m) := by
  unfold sourceMessage
  split
  · split
    · exact (endFeedReset_same _ _ _ s).mono (by decide)
    · exact .refl _ s
  · split
    · exact (illFormed_same s).mono (by decide)
    · exact ((startRun_same s).mono (by decide)).ite (.refl _ s)
    · exact absurd mild (by simp [SourceInput.keepsRun])
    · exact arriveRecord_flat _ s
    · exact absurd mild (by simp [SourceInput.keepsRun])
    · exact .refl _ s

/-! ## The Feed Link -/

/-- A message that ends no run. -/
theorem Closes.source {m : Option SourceInput} (mild : SourceInput.keepsRun m = true) (s : State) :
    s.Closes (s.sourceMessage m).emit :=
  .emitted (fun _ a => a.sourceMessage m) ((sourceMessage_flat mild s).calm (by decide))

section
variable (s : State)

theorem Closes.sourceEnd (m : Option SourceInput) : s.Closes (s.sourceMessage m).settle :=
  .settled fun _ a => a.sourceMessage m

theorem Closes.acceptExpiry : s.Closes s.acceptExpiry := (settled fun _ a => (a.endWithoutStart _).suspect).ite (.refl s)

theorem Closes.haltExpiry : s.Closes s.haltExpiry := (settled fun _ a => a.abortedEnd.suspect).ite (.refl s)

theorem Closes.resetExpiry : s.Closes s.resetExpiry := by
  unfold State.resetExpiry
  split
  · exact (emitted (fun _ a => a.endFeedReset _ _ _) ((endFeedReset_same _ _ _ s).calm (by decide))).ite (.refl s)
  · exact .refl s

theorem Closes.tallyExpiry (x : RunState) : s.Closes (s.tallyExpiry x) :=
  (settled fun _ a => (a.onRun (f := fun r => { r with timer := none }) (.inl rfl) rfl (fun _ => id)
    fun _ => .inl).raiseException _).ite (.refl s)

theorem Closes.passTallyFrame (h : HeadId) (d p : Half) (m : SiteSet) : s.Closes (s.passTallyFrame h d p m) := by
  have collected := onGates_same (fun g => { g with collected := upd g.collected h fun _ => some m }) s
  have kept {l : Law} (a : l.Holds s) :
      l.Holds (s.onGates fun g => { g with collected := upd g.collected h fun _ => some m }) :=
    a.onGates (Nat.le_refl _) (Nat.le_refl _)
  exact (emitted (fun _ a => (kept a).makeDecision.ite (kept a))
    (((collected.calm (by decide)).trans ((makeDecision_same _).calm (by decide))).ite (collected.calm (by decide)))).ite
      (.refl s)

theorem Closes.endTallyFrame (h : HeadId) : s.Closes (s.endTallyFrame h) := by
  have kept {l : Law} (a : l.Holds s) :
      l.Holds (s.onRun fun r => { r with tallied := r.tallied ||| (1#4 <<< h.val) }) :=
    a.onRun (.inl rfl) rfl (fun _ => id) fun _ => .inl
  exact (settled fun _ a => (kept a).normalEnd.ite (kept a)).ite (.refl s)

/-! ## Fail words -/

theorem Closes.failFrame (h : HeadId) (i k : Byte) (r c : Half) (waits : Bool) :
    s.Closes (s.failFrame h i k r c waits) := by
  unfold State.failFrame
  split
  · rename_i w _
    have taken := (failTaken_same w s).calm (by decide)
    exact emitted (fun _ a => (a.failTaken w).ite (a.failTaken w).takeRaises)
      (taken.ite (taken.trans ((takeRaises_same _).calm (by decide))))
  · exact .refl s

/-- The raises of the oldest word are taken (R133). -/
theorem Closes.takeOldestRaises : s.Closes s.takeOldestRaises := by
  unfold State.takeOldestRaises
  split
  · exact .refl s
  · exact emitted (fun _ a => (a.onCapture _).takeEach _)
      (((onCapture_same _ s).calm (by decide)).trans ((takeEach_same _ _).calm (by decide)))

/-! ## Frames and events of a head -/

theorem Closes.serviceReplyFrame (h : HeadId) (n : Byte) (r : ServiceResult) (v : Half) :
    s.Closes (s.serviceReplyFrame h n r v) := by
  unfold State.serviceReplyFrame
  split
  · rename_i busy
    exact (settled fun _ a => a.endService (by rw [busy]; rfl) _ _).ite (.refl s)
  · exact .refl s

theorem Closes.serviceExpiry (h : HeadId) : s.Closes (s.serviceExpiry h) := by
  unfold State.serviceExpiry
  split
  · rename_i busy
    exact settled fun _ a => a.endService (by rw [busy]; rfl) _ _
  · exact .refl s

/-- A supply that trips is ON, and its link LOCKED (R151, R152). -/
theorem Closes.supplyTripFrame (h : HeadId) : s.Closes (s.supplyTripFrame h) := by
  unfold State.supplyTripFrame
  split
  · rename_i on
    refine settled fun l a => ?_
    have tripped := (a.setSupply (h := h) (x := .fault) fun law _ =>
      ((a.posted law).sound h).supplied (by simp [on])).raiseFlag h HeadFlag.supplyTrip
    exact (tripped.dropHead h _).ite tripped
  · exact .refl s

theorem Closes.headFrame (h : HeadId) (f : Option HeadInput) : s.Closes (s.headFrame h f) := by
  unfold State.headFrame
  split
  · exact .refl s
  · exact failFrame s h _ _ _ _ _
  · exact passTallyFrame s h _ _ _
  · exact endTallyFrame s h
  · exact serviceReplyFrame s h _ _ _
  · exact supplyTripFrame s h

theorem Closes.awaitAfter (h : HeadId) (bytes : List Byte) : s.Closes (s.awaitAfter h bytes) :=
  (unsent (fun _ a => a.onHead_plain rfl rfl rfl rfl rfl) (onHead_calm h s rfl) rfl rfl rfl).ite (.refl s)

theorem Closes.startLine (h : HeadId) (level : LineLevel) : s.Closes (s.startLine h level) :=
  (Closes.refl s).ite (settled fun _ a => (a.onLines h _).filterChange level)

theorem Closes.candidateExpiry (h : HeadId) : s.Closes (s.candidateExpiry h) := by
  unfold State.candidateExpiry
  split
  · exact settled fun _ a => a.recognise _
  · exact .refl s

theorem Closes.reseekExpiry (h : HeadId) : s.Closes (s.reseekExpiry h) := by
  unfold State.reseekExpiry
  split
  · rename_i lost
    exact reports (fun _ a => (a.setLink (h := h) (x := .seeking) (by simp [lost.1]) (by simp)).onHead_plain
      rfl rfl rfl rfl rfl) rfl
  · exact .refl s

/-! ## The bin interface -/

theorem Closes.completeFrame (h : HeadId) : s.Closes (s.completeFrame h) := by
  have moved {l : Law} (a : l.Holds s) : l.Holds (s.onLines h fun x => { x with bclk := bclkIdle (s.bin h).format }) :=
    a.onLines h _
  unfold State.completeFrame
  simp only
  split
  · rename_i some_
    exact reports (fun _ a => (moved a).leaveBinWait (a.waits some_) _) (deliver_same h _ .alloc (by decide))
  · exact unsent (fun _ => moved) ((onLines_same h _ s).calm (by decide)) rfl rfl rfl

theorem Closes.staleExpiry (h : HeadId) : s.Closes (s.staleExpiry h) :=
  (reports (fun _ a => (a.onBin (h := h) (f := fun b => { b with stale := .expired }) rfl).raiseFlag h _) rfl).ite (.refl s)

theorem Closes.bclkEdge (h : HeadId) (level : LineLevel) : s.Closes (s.bclkTo h level).report :=
  reports (fun _ a => a.bclkTo level) (bclkTo_same h level s .alloc (by decide))

/-! ## The port -/

theorem Closes.receiveBytes (bytes : List Byte) : s.Closes (s.receiveBytes bytes) :=
  emitted (fun _ a => a.onPort fun p => p.receiveAll bytes) ((onPort_same _ s).calm (by decide))

theorem Closes.handOn : s.Closes (s.onPort ControlPort.handOn) := by
  refine unsent (fun _ a => a.onPort fun p => p.handOn) ((onPort_same _ s).calm (by decide)) ?_ ?_ ?_ <;>
    exact show _ = _ by rw [onPort_port, ControlPort.handOn]; split <;> rfl

theorem Closes.frameSent : s.Closes s.frameSent := by
  unfold State.frameSent
  split
  · exact .refl s
  · rename_i x _
    exact emitted (fun _ a => (a.onPort fun p => p.finish x).same (onWire_same _ _) (by decide))
      (((onPort_same _ s).comp (onWire_same _ _) (k := [.port, .wire]) (by decide) (by decide)).calm (by decide))

theorem Closes.powerOn : s.Closes s.powerOn where
  laws _ a := a.powerOn
  reported _ := ⟨reported_reset.transmitting, fun h => congrArg HeadContext.raised (resetBlocks_head s h)⟩
  idle _ _ := rfl

/-- The owner of a request meets the state with the request taken; away from it the frame of the request comes in. -/
theorem Closes.request {q : Request} {owner : State → State} (h : ∀ t : State, t.Closes (owner t)) :
    s.Closes (takeRequest q owner s) := by
  cases e : s.port.offer q with
  | none =>
    rw [takeRequest_arrives e]
    exact emitted (fun _ a => a.onPort fun p => p.receiveFrame q) ((onPort_same _ s).calm (by decide))
  | some p =>
    rw [takeRequest_taken e]
    refine trans (t := s.onPort fun _ => p) (unsent (fun _ a => a.onPort fun b => b.offer e)
      ((onPort_same _ s).calm (by decide)) ?_ ?_ ?_) (h _) <;>
    rcases offer_cases e with ⟨_, rfl⟩ | ⟨_, _, _, rfl⟩ <;> rfl

end

end State
end Sys2Proof.Machine
end

section
/-!
What the owner of each request does (10.3), every command, and the two obligations on a step: the bounds (O53) and the
laws of the heads (O54).
-/

namespace Sys2Proof.Machine

namespace State

section
variable (q : Request) (s : State)

/-! ## Requests to the port and the Plan Store -/

theorem Closes.configureRequest (b : ConfigureBody) : s.Closes (s.configureRequest q b) := by
  unfold State.configureRequest
  split
  · exact refused q _ s
  · rename_i c _ _
    have set_ {l : Law} (a : l.Holds s) : l.Holds (s.onPort fun p => { p with config := c }) :=
      a.onPort fun p => p.congr rfl rfl rfl
    exact replied (fun _ a => (set_ a).same (onStore_same _ _) (by decide))
      (((onPort_same _ s).comp (onStore_same _ _) (k := [.port, .store]) (by decide) (by decide)).calm (by decide)) q _

theorem clearEvents_head (b : EventsBody) (h : HeadId) : (s.clearEvents b).head h =
    { s.head h with flags := (s.head h).flags &&& ~~~(b.headClear[h].extractLsb' 0 10) } := by
  simp [clearEvents, State.head]

/-- The clearing of flags changes nothing that the laws of the heads read (R180). -/
theorem Posted.clearEvents {s : State} (p : s.Posted) (b : EventsBody) : (s.clearEvents b).Posted := by
  refine ⟨fun h => ?_, fun h => (p.placed h).congr ?_ rfl (fun _ mem _ => mem) (fun _ mem _ => mem) rfl, p.entries,
    p.jobs⟩ <;> rw [clearEvents_head]
  exact (p.sound h).congr rfl rfl rfl rfl rfl

theorem Closes.eventsReadRequest (b : EventsBody) : s.Closes (s.eventsReadRequest q b) := by
  have cleared {l : Law} (a : l.Holds s) : l.Holds (s.clearEvents b) :=
    a.of_laws (fun p => p.congr rfl rfl rfl) id (fun r => r.of_eq rfl rfl) fun _ p => p.clearEvents b
  exact replied (fun _ => cleared) ⟨fun h => by rw [clearEvents_head], rfl⟩ q _

theorem Closes.partResetRequest : s.Closes (s.partResetRequest q) where
  laws _ a := ((((a.onPort fun p => p.partReset q.tag).resetBlocks).answerOk q []).emit)
  reported _ := ⟨ControlPort.transmit_free, fun h => congrArg HeadContext.raised (resetBlocks_head _ h)⟩
  idle _ _ := rfl

theorem Closes.planLoadRequest (b : PlanBody) : s.Closes (s.planLoadRequest q b) := by
  unfold State.planLoadRequest
  split
  · exact refused q _ s
  · refine (refused q _ s).ite ?_
    split
    · exact refused q _ s
    · exact aside (onStore_same _ s) (by decide) q _

theorem Closes.planReadRequest (x : Byte) : s.Closes (s.planReadRequest q x) := by
  unfold State.planReadRequest
  split
  · exact refused q _ s
  · exact answered q _ s

theorem Closes.planFreeRequest (x : Byte) : s.Closes (s.planFreeRequest q x) := by
  unfold State.planFreeRequest
  split
  · exact refused q _ s
  · exact (refused q _ s).ite (aside (onStore_same _ s) (by decide) q _)

/-! ## Requests to the Head Managers -/

/-- One head changes in fields that no law reads. -/
theorem Closes.plain {f : HeadContext → HeadContext} (h : HeadId) (laws : ∀ l : Law, l.Holds s → l.Holds (s.onHead h f))
    (raised : (f (s.head h)).raised = (s.head h).raised) (fields : List Byte) :
    s.Closes ((s.onHead h f).answerOk q fields).emit := replied laws (onHead_calm h s raised) q fields

theorem Closes.siteEnableRequest (x : Byte) (set : SiteSet) : s.Closes (s.siteEnableRequest q x set) := by
  have enabled (h : HeadId) : s.Closes ((s.enableSites h set).answerOk q []).emit :=
    replied (fun _ a => (a.onHead_plain (f := fun c => { c with enableSet := set }) rfl rfl rfl rfl rfl).mapSites h _)
      ((onHead_calm h s rfl).trans ((mapSites_same h _ _).calm (by decide))) q _
  unfold State.siteEnableRequest
  split
  · exact refused q _ s
  · split
    · exact enabled _
    · exact enabled _
    · exact enabled _
    · exact refused q _ s

theorem Closes.headLinkRequest (x e d m : Byte) : s.Closes (s.headLinkRequest q x e d m) := by
  unfold State.headLinkRequest
  split
  · exact settled fun _ a => (a.configureLink _ _ _).answerOk q _
  · exact refused q _ s

theorem Closes.linkShiftRequest (x : Byte) : s.Closes (s.linkShiftRequest q x) := by
  unfold State.linkShiftRequest
  split
  · exact refused q _ s
  · exact (plain q s _ (fun _ a => a.onHead_plain rfl rfl rfl rfl rfl) rfl _).ite (refused q _ s)

theorem locked_of_not_barred {h : HeadId} {on : Bool} (free : ¬ s.supplyBarred h on = true) :
    (s.head h).link = .locked := by
  by_contra apart
  exact free (by simp [supplyBarred, apart])

theorem Closes.supplySetRequest (x y : Byte) : s.Closes (s.supplySetRequest q x y) := by
  unfold State.supplySetRequest
  split
  · split
    · exact refused q _ s
    · rename_i free
      exact (refused q _ s).ite ((refused q _ s).ite ((answered q _ s).ite (emitted
        (fun _ a => a.startSupply (fun _ => locked_of_not_barred s free) _ _) (startSupply_calm _ _ _ s))))
  · exact refused q _ s

theorem Closes.headAccessRequest (x d r : Byte) (v : Half) : s.Closes (s.headAccessRequest q x d r v) := by
  unfold State.headAccessRequest
  split
  · split
    · exact refused q _ s
    · rename_i locked
      exact (refused q _ s).ite (emitted (fun _ a => a.issueService (fun _ => Decidable.not_not.mp locked) _ _)
        (issueService_calm _ _ _ s))
  · exact refused q _ s

theorem Closes.headStandbyRequest (x : Byte) : s.Closes (s.headStandbyRequest q x) := by
  unfold State.headStandbyRequest
  split
  · exact refused q _ s
  · rename_i h _
    simp only
    split
    · exact refused q _ s
    · rename_i taken
      have idle : (s.head h).state = .idle := Decidable.not_not.mp fun apart => taken (.inl apart)
      refine (refused q _ s).ite ((refused q _ s).ite (emitted (fun l a => a.issueService (fun law => ?_) _ _)
        (issueService_calm _ _ _ s)))
      exact ((a.posted law).sound h).linked (by simp [idle, HeadState.onLink])

theorem Closes.headWakeRequest (x : Byte) : s.Closes (s.headWakeRequest q x) := by
  unfold State.headWakeRequest
  split
  · exact refused q _ s
  · rename_i h _
    split
    · exact refused q _ s
    · rename_i standby
      split
      · exact refused q _ s
      · rename_i free
        refine emitted (fun l a => a.startWake (Decidable.not_not.mp standby) (fun law => ?_) _ _) (startWake_calm _ _ _ s)
        exact Option.not_isSome_iff_eq_none.mp fun wake => free (((a.posted law).sound h).wakes wake).2

theorem Closes.startConfigRequest (b : StartBody) : s.Closes (s.startConfigRequest q b) := by
  unfold State.startConfigRequest
  split
  · exact (refused q _ s).ite (replied (fun _ a => (a.onHead_plain rfl rfl rfl rfl rfl).pauseFilter _)
      ((onHead_calm _ s rfl).trans (pauseFilter_calm _ _)) q _)
  · exact refused q _ s

theorem Closes.headEventsRequest (x : Byte) (e : Half) : s.Closes (s.headEventsRequest q x e) := by
  unfold State.headEventsRequest
  split
  · exact refused q _ s
  · exact (refused q _ s).ite (plain q s _ (fun _ a => a.onHead_plain rfl rfl rfl rfl rfl) rfl _)

theorem Closes.headStatusRequest (x : Byte) : s.Closes (s.headStatusRequest q x) := by
  unfold State.headStatusRequest
  split
  · exact refused q _ s
  · exact answered q _ s

theorem Closes.headResetRequest (x : Byte) : s.Closes (s.headResetRequest q x) := by
  unfold State.headResetRequest
  split
  · exact refused q _ s
  · exact settled fun _ a => a.resetHead q _

/-! ## Requests to the Run Arbiter and the Run Controller -/

theorem Closes.runRequestRequest (x y : Byte) : s.Closes (s.runRequestRequest q x y) := by
  unfold State.runRequestRequest
  split
  · split
    · exact refused q _ s
    · rename_i idle
      exact (refused q _ s).ite (settled fun _ a => (a.join (Decidable.not_not.mp idle) _).answerOk q _)
  · exact refused q _ s

theorem Closes.runCancelRequest (x : Byte) : s.Closes (s.runCancelRequest q x) := by
  unfold State.runCancelRequest
  split
  · exact refused q _ s
  · split
    · exact refused q _ s
    · rename_i queued
      exact replied (fun _ a => a.withdraw (Decidable.not_not.mp queued) rfl fun _ off => by cases off)
        (withdraw_calm _ _ s) q _

theorem Closes.arbiterSetRequest (x : Byte) : s.Closes (s.arbiterSetRequest q x) := by
  unfold State.arbiterSetRequest
  split
  · exact refused q _ s
  · rename_i on _
    have set_ {l : Law} (a : l.Holds s) : l.Holds (s.onArbiter fun b => { b with enabled := on }) :=
      a.ofHeads (onArbiter_same _ s) (by decide) fun _ p =>
        ⟨p.sound, fun h => (p.placed h).congr rfl rfl (fun _ mem _ => mem) (fun _ mem _ => mem) rfl, p.entries, p.jobs⟩
    exact settled fun _ a => (set_ a).answerOk q _

theorem Closes.runAbortRequest : s.Closes (s.runAbortRequest q) :=
  (refused q _ s).ite (replied (fun _ a => a.abortRun _) ((abortRun_same _ s).calm (by decide)) q _)

theorem Closes.runDropHeadRequest (x : Byte) : s.Closes (s.runDropHeadRequest q x) := by
  unfold State.runDropHeadRequest
  split
  · exact refused q _ s
  · exact (refused q _ s).ite (settled fun _ a => (a.dropHead _ _).answerOk q _)

theorem Closes.runSetMaskRequest (x : Byte) : s.Closes (s.runSetMaskRequest q x) := by
  unfold State.runSetMaskRequest
  split
  · exact refused q _ s
  · exact (refused q _ s).ite (replied (fun _ a => a.onRun (.inl rfl) rfl (fun _ => id) fun _ => .inl)
      ((onRun_same _ s).calm (by decide)) q _)

/-- A run resumes in a state that its hold recorded, in which it is under way (R135, R137). -/
theorem Closes.resumeRequest : s.Closes (s.resumeRequest q) := by
  unfold State.resumeRequest
  split
  · rename_i returns
    refine settled fun l a => (a.resumeRun _ fun on none_ => ?_).answerOk q _
    have states := (a.runLaws on).returns _ returns
    rw [none_] at states
    simp at states
  · exact refused q _ s

theorem Closes.feedResetRequest : s.Closes (s.feedResetRequest q) := by
  have sent {l : Law} (a : l.Holds s) : l.Holds ((s.onRun fun r =>
      { r with linkReady := false, resetPending := some q.tag, timer := some Config.fiftyMs }).sendSource .linkReset) :=
    (a.onRun (.inl rfl) rfl (fun _ => id) fun _ => .inl).sendSource _
  exact (refused q _ s).ite (emitted (fun _ => sent)
    (((onRun_same _ s).comp (sendSource_same _ _) (k := [.run, .wire]) (by decide) (by decide)).calm (by decide)))

/-! ## Requests to the Capture Unit, the Repair Allocator and the Bin Ports -/

theorem Closes.watchSetRequest (b : WatchBody) : s.Closes (s.watchSetRequest q b) := by
  unfold State.watchSetRequest
  split
  · exact refused q _ s
  · exact aside (onCapture_same _ s) (by decide) q _

theorem Closes.watchReadRequest (x : Byte) : s.Closes (s.watchReadRequest q x) := by
  unfold State.watchReadRequest
  split
  · exact refused q _ s
  · exact answered q _ s

theorem Closes.tableReadRequest (x y : Byte) (n : Half) (m : Byte) : s.Closes (s.tableReadRequest q x y n m) := by
  unfold State.tableReadRequest
  split
  · exact (answered q _ s).ite (refused q _ s)
  · exact refused q _ s

theorem Closes.siteResultRequest (x y : Byte) : s.Closes (s.siteResultRequest q x y) := by
  unfold State.siteResultRequest
  split
  · exact answered q _ s
  · exact refused q _ s

/-- No job of the head is queued (R63). -/
theorem jobOf_none {h : HeadId} (none_ : ¬ (s.jobOf h).isSome = true) : ∀ j ∈ s.alloc.jobs, j.head ≠ h := by
  intro j mem own
  have absent := List.find?_eq_none.mp (Option.not_isSome_iff_eq_none.mp none_) j mem
  exact absent (beq_iff_eq.mpr own)

theorem Closes.analyseRequest (x : Byte) (b : Half) (f : Byte) : s.Closes (s.analyseRequest q x b f) := by
  unfold State.analyseRequest
  split
  · refine (refused q _ s).ite ?_
    split
    · exact refused q _ s
    · rename_i state
      split
      · exact refused q _ s
      · rename_i absent
        exact served (fun _ a => a.addJob (Decidable.not_not.mp state) (jobOf_none s absent))
          ((addJob_same _ s).hushed (by decide))
  · exact refused q _ s

theorem Closes.binConfigRequest (x y z : Byte) : s.Closes (s.binConfigRequest q x y z) := by
  unfold State.binConfigRequest
  split
  · exact (refused q _ s).ite (replied (fun _ a => a.onBin rfl) ((onBin_same _ _ s).calm (by decide)) q _)
  · exact refused q _ s

theorem Closes.binReleaseRequest (x : Byte) : s.Closes (s.binReleaseRequest q x) := by
  unfold State.binReleaseRequest
  split
  · exact refused q _ s
  · split
    · exact refused q _ s
    · rename_i waits
      exact reports (fun _ a => (a.leaveBinWait (fun _ => Decidable.not_not.mp waits) _).answerOk q _)
        (leaveBinWait_same _ _ s .alloc (by decide))

theorem Closes.binStatusRequest (x : Byte) : s.Closes (s.binStatusRequest q x) := by
  unfold State.binStatusRequest
  split
  · exact refused q _ s
  · exact answered q _ s

end

/-! ## Every command -/

/-- The taking of a command from the queue. -/
theorem Closes.withPending (s : State) (rest : List Instr) : s.Closes (s.withPending rest) :=
  unsent (fun _ a => a.of_laws id id (fun r => r.of_eq rfl rfl) fun _ p =>
    ⟨p.sound, fun h => (p.placed h).congr rfl rfl (fun _ mem _ => mem) (fun _ mem _ => mem) rfl, p.entries, p.jobs⟩)
    ⟨.refl s, rfl⟩ rfl rfl rfl

/-- Every command has a next state, and keeps the laws. -/
theorem Closes.exec (c : Instr) (s : State) : ∃ t, Machine.exec c s = .next t ∧ s.Closes t := by
  have decoded : ∀ {h : HeadId} {t : State}, s.Closes t → s.Closes (if s.decodes h then t else s) :=
    fun a => a.ite (.refl s)
  cases c with
  | powerOnReset => exact ⟨_, rfl, powerOn s⟩
  | controlFrameReceive bytes => exact ⟨_, rfl, receiveBytes s bytes⟩
  | controlByteDiscard byte => exact ⟨_, rfl, receiveBytes s _⟩
  | requestHandOn => exact ⟨_, rfl, handOn s⟩
  | frameSent => exact ⟨_, rfl, frameSent s⟩
  | identify tag => exact ⟨_, rfl, request s fun t => answered _ _ t⟩
  | status tag => exact ⟨_, rfl, request s fun t => answered _ _ t⟩
  | configure tag body => exact ⟨_, rfl, request s fun t => configureRequest _ t body⟩
  | eventsRead tag body => exact ⟨_, rfl, request s fun t => eventsReadRequest _ t body⟩
  | partReset tag => exact ⟨_, rfl, request s fun t => partResetRequest _ t⟩
  | planLoad tag body => exact ⟨_, rfl, request s fun t => planLoadRequest _ t body⟩
  | planRead tag slot => exact ⟨_, rfl, request s fun t => planReadRequest _ t slot⟩
  | planFree tag slot => exact ⟨_, rfl, request s fun t => planFreeRequest _ t slot⟩
  | siteEnable tag head set => exact ⟨_, rfl, request s fun t => siteEnableRequest _ t head set⟩
  | headLink tag head e d m => exact ⟨_, rfl, request s fun t => headLinkRequest _ t head e d m⟩
  | linkShift tag head => exact ⟨_, rfl, request s fun t => linkShiftRequest _ t head⟩
  | supplySet tag head setting => exact ⟨_, rfl, request s fun t => supplySetRequest _ t head setting⟩
  | headAccess tag head d r v => exact ⟨_, rfl, request s fun t => headAccessRequest _ t head d r v⟩
  | headStandby tag head => exact ⟨_, rfl, request s fun t => headStandbyRequest _ t head⟩
  | headWake tag head => exact ⟨_, rfl, request s fun t => headWakeRequest _ t head⟩
  | startConfig tag body => exact ⟨_, rfl, request s fun t => startConfigRequest _ t body⟩
  | headEvents tag head e => exact ⟨_, rfl, request s fun t => headEventsRequest _ t head e⟩
  | headStatus tag head => exact ⟨_, rfl, request s fun t => headStatusRequest _ t head⟩
  | headReset tag head => exact ⟨_, rfl, request s fun t => headResetRequest _ t head⟩
  | runRequest tag head slot => exact ⟨_, rfl, request s fun t => runRequestRequest _ t head slot⟩
  | runCancel tag head => exact ⟨_, rfl, request s fun t => runCancelRequest _ t head⟩
  | arbiterSet tag enable => exact ⟨_, rfl, request s fun t => arbiterSetRequest _ t enable⟩
  | runAbort tag => exact ⟨_, rfl, request s fun t => runAbortRequest _ t⟩
  | runDropHead tag head => exact ⟨_, rfl, request s fun t => runDropHeadRequest _ t head⟩
  | runSetMask tag masks => exact ⟨_, rfl, request s fun t => runSetMaskRequest _ t masks⟩
  | resume tag => exact ⟨_, rfl, request s fun t => resumeRequest _ t⟩
  | runStatus tag => exact ⟨_, rfl, request s fun t => answered _ _ t⟩
  | feedReset tag => exact ⟨_, rfl, request s fun t => feedResetRequest _ t⟩
  | watchSet tag body => exact ⟨_, rfl, request s fun t => watchSetRequest _ t body⟩
  | watchRead tag index => exact ⟨_, rfl, request s fun t => watchReadRequest _ t index⟩
  | tableRead tag head site n m => exact ⟨_, rfl, request s fun t => tableReadRequest _ t head site n m⟩
  | siteResult tag head site => exact ⟨_, rfl, request s fun t => siteResultRequest _ t head site⟩
  | analyse tag head budget force => exact ⟨_, rfl, request s fun t => analyseRequest _ t head budget force⟩
  | binConfig tag head f x => exact ⟨_, rfl, request s fun t => binConfigRequest _ t head f x⟩
  | binRelease tag head => exact ⟨_, rfl, request s fun t => binReleaseRequest _ t head⟩
  | binStatus tag head => exact ⟨_, rfl, request s fun t => binStatusRequest _ t head⟩
  | accept n => exact ⟨_, rfl, source rfl s⟩
  | decline reason => exact ⟨_, rfl, sourceEnd s _⟩
  | acceptTimeout => exact ⟨_, rfl, acceptExpiry s⟩
  | block payload => exact ⟨_, rfl, source (by split <;> rfl) s⟩
  | gateOpen limit => exact ⟨_, rfl, source (by split <;> rfl) s⟩
  | gateClose => exact ⟨_, rfl, source rfl s⟩
  | endRecord => exact ⟨_, rfl, source rfl s⟩
  | halted => exact ⟨_, rfl, sourceEnd s _⟩
  | resetDone => exact ⟨_, rfl, sourceEnd s _⟩
  | feedMessageIllFormed bytes => exact ⟨_, rfl, sourceEnd s _⟩
  | haltTimeout => exact ⟨_, rfl, haltExpiry s⟩
  | feedResetTimeout => exact ⟨_, rfl, resetExpiry s⟩
  | tallyTimeoutDeciding => exact ⟨_, rfl, tallyExpiry s _⟩
  | tallyTimeoutDraining => exact ⟨_, rfl, tallyExpiry s _⟩
  | fail link site bank row column => exact ⟨_, rfl, decoded (failFrame s _ _ _ _ _ _)⟩
  | passTally head d p m => exact ⟨_, rfl, decoded (passTallyFrame s head d p m)⟩
  | endTally head => exact ⟨_, rfl, decoded (endTallyFrame s head)⟩
  | allocatorMove => exact ⟨_, rfl, served (fun _ a => a.engineMove) (engineMove_hushed s)⟩
  | binDelivery head => exact ⟨_, rfl, completeFrame s head⟩
  | binStaleExpiry head => exact ⟨_, rfl, staleExpiry s head⟩
  | startLineChange head level => exact ⟨_, rfl, startLine s head level⟩
  | startCandidateExpiry head => exact ⟨_, rfl, candidateExpiry s head⟩
  | alignMarkPlaced head => exact ⟨_, rfl, settled fun _ a => a.placedMark⟩
  | alignMarkMisplaced head position => exact ⟨_, rfl, settled fun _ a => a.misplacedMark position⟩
  | signalLoss head => exact ⟨_, rfl, settled fun _ a => a.lossOfSignal⟩
  | reseekTimerExpiry head => exact ⟨_, rfl, reseekExpiry s head⟩
  | headFrameDiscard head bytes => exact ⟨_, rfl, decoded ((headFrame s head _).trans (awaitAfter _ head bytes))⟩
  | serviceReply head n r v => exact ⟨_, rfl, decoded (serviceReplyFrame s head n r v)⟩
  | serviceTimeout head => exact ⟨_, rfl, serviceExpiry s head⟩
  | supplyTrip head => exact ⟨_, rfl, decoded (supplyTripFrame s head)⟩
  | bclkEdge head level => exact ⟨_, rfl, bclkEdge s head level⟩

/-- A step is the command at the front of the queue, or the oldest word's raises being taken. -/
theorem Closes.step {s t : State} (h : Machine.step s = .next t) : s.Closes t := by
  unfold Machine.step at h
  split at h
  · obtain rfl := Host.Outcome.next.inj h
    exact takeOldestRaises s
  · rename_i c rest _
    obtain ⟨u, run, closes⟩ := exec c (s.withPending rest)
    rw [run] at h
    exact Host.Outcome.next.inj h ▸ (withPending s rest).trans closes

end State

/-! ## The obligations -/

/-- Settles O53: every operation of a step keeps the bounds of the run and of the port and the engine at its job, and
the last operations of the step see to the transmitter, the events of the heads and the idle engine. -/
theorem everyStepKeepsTheBounds : Obligations.EveryStepKeepsTheBounds := by
  refine ⟨fun s t laws h => ?_, fun s t laws h => ?_, fun s t laws h => ?_, fun s t laws h => ?_⟩ <;>
    have closes := State.Closes.step h
  · exact closes.laws .run laws
  · exact closes.laws .port laws
  · exact closes.reported laws
  · obtain ⟨serves, idle⟩ := engineLaws_iff.mp laws
    exact engineLaws_iff.mpr ⟨closes.laws .engine serves, closes.idle idle⟩

/-- Settles O54: the heads keep their places in the run, the queue, the jobs and the bin ports under every operation of a
step, along with the bounds of the run. -/
theorem everyStepKeepsTheHeadLaws : Obligations.EveryStepKeepsTheHeadLaws := fun _ _ run heads h =>
  State.posted_iff.mp ((State.Closes.step h).laws .heads ⟨run, State.posted_iff.mpr heads⟩).2

end Sys2Proof.Machine
end

section
/-!
CLOSURE and SEARCH by what they choose (R69 to R73): the order of the cells, the least line over its limit, the cells
that no line covers, and the backtrack.
-/

namespace Sys2Proof.Machine

/-! ## Cells in their order -/

/-- A cell stands at another one or before it, by row and column (R71). -/
def CellAtMost (a b : Half × Half) : Prop := a.1 < b.1 ∨ (a.1 = b.1 ∧ a.2 ≤ b.2)

namespace CellAtMost

variable {a b c : Half × Half}

theorem refl (a : Half × Half) : CellAtMost a a := .inr ⟨rfl, BitVec.le_refl _⟩

theorem trans (x : CellAtMost a b) (y : CellAtMost b c) : CellAtMost a c := by
  rcases x with x | ⟨same, x⟩ <;> rcases y with y | ⟨also, y⟩
  · exact .inl (BitVec.lt_trans x y)
  · exact .inl (also ▸ x)
  · exact .inl (same ▸ y)
  · exact .inr ⟨same.trans also, BitVec.le_trans x y⟩

theorem antisymm (x : CellAtMost a b) (y : CellAtMost b a) : a = b := by
  rcases x with x | ⟨same, x⟩
  · rcases y with y | ⟨same, _⟩
    · exact absurd (BitVec.lt_trans x y) (BitVec.lt_irrefl _)
    · exact absurd (same ▸ x) (BitVec.lt_irrefl _)
  · rcases y with y | ⟨_, y⟩
    · exact absurd (same ▸ y) (BitVec.lt_irrefl _)
    · exact Prod.ext same (BitVec.le_antisymm x y)

/-- The order that the engine tests (R71). -/
theorem of_before (x : cellBefore a b = true) : CellAtMost a b := by
  simp only [cellBefore, Bool.or_eq_true, Bool.and_eq_true, decide_eq_true_eq, beq_iff_eq] at x
  exact x.imp_right fun ⟨same, less⟩ => ⟨same, BitVec.le_of_lt less⟩

theorem of_not_before (x : ¬ cellBefore b a = true) : CellAtMost a b := by
  simp only [cellBefore, Bool.or_eq_true, Bool.and_eq_true, decide_eq_true_eq, beq_iff_eq, not_or, not_and] at x
  obtain ⟨row, column⟩ := x
  by_cases same : a.1 = b.1
  · exact .inr ⟨same, BitVec.not_lt.mp (column same.symm)⟩
  · exact .inl (BitVec.lt_of_le_ne (BitVec.not_lt.mp row) same)

end CellAtMost

theorem firstCell_least {cells : List (Half × Half)} (some_ : cells ≠ []) :
    ∃ d, firstCell cells = some d ∧ d ∈ cells ∧ ∀ x ∈ cells, CellAtMost d x := by
  induction cells with
  | nil => exact absurd rfl some_
  | cons cell rest ih =>
    by_cases last : rest = []
    · subst last
      exact ⟨cell, rfl, List.mem_singleton_self _, fun x mem => List.mem_singleton.mp mem ▸ .refl _⟩
    · obtain ⟨d, first, mem, least⟩ := ih last
      simp only [firstCell, first]
      split
      · rename_i before
        refine ⟨d, rfl, List.mem_cons_of_mem _ mem, fun x here => ?_⟩
        rcases List.mem_cons.mp here with rfl | here
        · exact .of_before before
        · exact least x here
      · rename_i after
        refine ⟨cell, rfl, List.mem_cons_self, fun x here => ?_⟩
        rcases List.mem_cons.mp here with rfl | here
        · exact .refl _
        · exact (CellAtMost.of_not_before after).trans (least x here)

/-- The first cell is the one that stands before all others (R71). -/
theorem firstCell_eq {cells : List (Half × Half)} {d : Half × Half} (mem : d ∈ cells)
    (least : ∀ x ∈ cells, CellAtMost d x) : firstCell cells = some d := by
  obtain ⟨e, first, here, below⟩ := firstCell_least (List.ne_nil_of_mem mem)
  rw [first, (below d mem).antisymm (least e here)]

theorem firstCell_eq_none {cells : List (Half × Half)} : firstCell cells = none ↔ cells = [] := by
  refine ⟨fun none_ => ?_, fun empty => empty ▸ rfl⟩
  by_contra some_
  obtain ⟨d, first, _⟩ := firstCell_least some_
  rw [first] at none_
  cases none_

/-! ## The lowest line over its limit -/

/-- The lower of an address and the lowest so far. -/
def lower (best : Option Half) (a : Half) : Option Half :=
  match best with
  | none => some a
  | some b => some (if a < b then a else b)

theorem lowestOver_eq (limit : Nat) (addresses : List Half) : lowestOver limit addresses =
    (addresses.filter fun a => decide (limit < addresses.count a)).foldl lower none := rfl

theorem foldl_lower (l : List Half) (b : Half) :
    ∃ m, l.foldl lower (some b) = some m ∧ m ∈ b :: l ∧ ∀ x ∈ b :: l, m ≤ x := by
  induction l generalizing b with
  | nil => exact ⟨b, rfl, List.mem_singleton_self _, fun x mem => List.mem_singleton.mp mem ▸ BitVec.le_refl _⟩
  | cons a rest ih =>
    rw [List.foldl_cons, lower]
    split
    · rename_i less
      obtain ⟨m, found, mem, least⟩ := ih a
      refine ⟨m, found, List.mem_cons_of_mem _ mem, fun x here => ?_⟩
      rcases List.mem_cons.mp here with rfl | here
      · exact BitVec.le_trans (least a List.mem_cons_self) (BitVec.le_of_lt less)
      · exact least x here
    · rename_i more
      obtain ⟨m, found, mem, least⟩ := ih b
      refine ⟨m, found, ?_, fun x here => ?_⟩
      · rcases List.mem_cons.mp mem with rfl | mem
        · exact List.mem_cons_self
        · exact List.mem_cons_of_mem _ (List.mem_cons_of_mem _ mem)
      · rcases List.mem_cons.mp here with rfl | here
        · exact least x List.mem_cons_self
        · rcases List.mem_cons.mp here with rfl | here
          · exact BitVec.le_trans (least b List.mem_cons_self) (BitVec.not_lt.mp more)
          · exact least x (List.mem_cons_of_mem _ here)

theorem mem_over {limit : Nat} {addresses : List Half} {r : Half} :
    r ∈ (addresses.filter fun a => decide (limit < addresses.count a)) ↔ limit < addresses.count r := by
  rw [List.mem_filter, decide_eq_true_eq]
  exact ⟨And.right, fun above => ⟨List.count_pos_iff.mp (Nat.lt_of_le_of_lt (Nat.zero_le _) above), above⟩⟩

/-- The lowest address over its limit (R70). -/
theorem lowestOver_eq_some {limit : Nat} {addresses : List Half} {r : Half} (above : limit < addresses.count r)
    (lowest : ∀ x, x < r → addresses.count x ≤ limit) : lowestOver limit addresses = some r := by
  have mem := mem_over.mpr above
  rw [lowestOver_eq]
  cases found : addresses.filter fun a => decide (limit < addresses.count a) with
  | nil => exact absurd (found ▸ mem) List.not_mem_nil
  | cons b rest =>
    rw [found] at mem
    obtain ⟨m, fold, here, least⟩ := foldl_lower rest b
    have not_lower : ¬ m < r := fun less => Nat.not_lt.mpr (lowest m less) (mem_over.mp (found ▸ here))
    rw [List.foldl_cons, lower, fold, BitVec.le_antisymm (least r mem) (BitVec.not_lt.mp not_lower)]

theorem lowestOver_eq_none {limit : Nat} {addresses : List Half} (within : ∀ x, addresses.count x ≤ limit) :
    lowestOver limit addresses = none := by
  rw [lowestOver_eq, List.eq_nil_iff_forall_not_mem.mpr fun x mem => Nat.not_lt.mpr (within x) (mem_over.mp mem)]
  rfl

/-- The cells of a line, counted by its address. -/
theorem count_map {α : Type} (f : α → Half) (l : List α) (r : Half) :
    (l.map f).count r = (l.filter fun x => f x == r).length := by
  rw [List.count, List.countP_map, List.countP_eq_length_filter]
  rfl

/-! ## Covered cells -/

theorem Line.covers_iff {cell : Half × Half} {l : Line} : l.covers cell = true ↔ l = .row cell.1 ∨ l = .col cell.2 := by
  cases l <;> simp [Line.covers]

/-- A working line or a choice covers the cell (R69). -/
def Covered (lines : List Line) (stack : List Choice) (x : Half × Half) : Prop :=
  (∃ l ∈ lines, l = .row x.1 ∨ l = .col x.2) ∨ ∃ c ∈ stack, c.line = .row x.1 ∨ c.line = .col x.2

theorem mem_uncovered {lines : List Line} {stack : List Choice} {cells : List (Half × Half)} {x : Half × Half} :
    x ∈ uncovered lines stack cells ↔ x ∈ cells ∧ ¬ Covered lines stack x := by
  simp [uncovered, Covered, List.mem_filter, Line.covers_iff]

theorem firstCell_uncovered {lines : List Line} {stack : List Choice} {cells : List (Half × Half)} {r c : Half}
    (mem : (r, c) ∈ cells) (bare : ¬ Covered lines stack (r, c))
    (least : ∀ x ∈ cells, ¬ Covered lines stack x → r < x.1 ∨ (r = x.1 ∧ c ≤ x.2)) :
    firstCell (uncovered lines stack cells) = some (r, c) :=
  firstCell_eq (mem_uncovered.mpr ⟨mem, bare⟩) fun x here => by
    obtain ⟨mem, bare⟩ := mem_uncovered.mp here
    exact least x mem bare

/-! ## The moves -/

section
variable {cells : List (Half × Half)} {w : Work}

theorem closureMove_row {r : Half} (above : w.spares.columns < ((uncovered w.lines w.stack cells).map Prod.fst).count r)
    (lowest : ∀ x, x < r → ((uncovered w.lines w.stack cells).map Prod.fst).count x ≤ w.spares.columns) :
    closureMove cells w = some (if w.spares.rows = 0 then .unrepairable 0 w
      else .move 1 w { w with lines := w.lines ++ [.row r], spares := ⟨w.spares.rows - 1, w.spares.columns⟩ }) := by
  simp only [closureMove, lowestOver_eq_some above lowest]
  split <;> rfl

theorem closureMove_column {c : Half}
    (within : ∀ r, ((uncovered w.lines w.stack cells).map Prod.fst).count r ≤ w.spares.columns)
    (above : w.spares.rows < ((uncovered w.lines w.stack cells).map Prod.snd).count c)
    (lowest : ∀ x, x < c → ((uncovered w.lines w.stack cells).map Prod.snd).count x ≤ w.spares.rows) :
    closureMove cells w = some (if w.spares.columns = 0 then .unrepairable 0 w
      else .move 1 w { w with lines := w.lines ++ [.col c], spares := ⟨w.spares.rows, w.spares.columns - 1⟩ }) := by
  simp only [closureMove, lowestOver_eq_none within, lowestOver_eq_some above lowest]
  split <;> rfl

theorem closureMove_complete (rows : ∀ r, ((uncovered w.lines w.stack cells).map Prod.fst).count r ≤ w.spares.columns)
    (columns : ∀ c, ((uncovered w.lines w.stack cells).map Prod.snd).count c ≤ w.spares.rows) :
    closureMove cells w = none := by
  simp only [closureMove, lowestOver_eq_none rows, lowestOver_eq_none columns]

/-- SEARCH is complete exactly when every cell is covered (R71). -/
theorem searchMove_eq_none : searchMove cells w = none ↔ ∀ x ∈ cells, Covered w.lines w.stack x := by
  have bare : searchMove cells w = none ↔ firstCell (uncovered w.lines w.stack cells) = none := by
    unfold searchMove
    cases first : firstCell (uncovered w.lines w.stack cells) with
    | none => simp
    | some cell =>
      refine iff_of_false ?_ (by simp)
      obtain ⟨r, c⟩ := cell
      simp only
      split
      · simp
      · split
        · simp
        · split <;> simp
  rw [bare, firstCell_eq_none, List.eq_nil_iff_forall_not_mem]
  exact forall_congr' fun x => by rw [mem_uncovered]; simp only [not_and, Classical.not_not]

section
variable {r c : Half} (first : firstCell (uncovered w.lines w.stack cells) = some (r, c))
include first

theorem searchMove_row (rows : 0 < w.spares.rows) : searchMove cells w = some (.move 1 w
    { w with stack := ⟨.row r, false⟩ :: w.stack, spares := ⟨w.spares.rows - 1, w.spares.columns⟩ }) := by
  simp only [searchMove, first, if_pos rows]

theorem searchMove_column (rows : w.spares.rows = 0) (columns : 0 < w.spares.columns) :
    searchMove cells w = some (.move 1 w
      { w with stack := ⟨.col c, true⟩ :: w.stack, spares := ⟨0, w.spares.columns - 1⟩ }) := by
  simp only [searchMove, first, rows, Nat.lt_irrefl, if_false, if_pos columns]

theorem searchMove_backtrack (rows : w.spares.rows = 0) (columns : w.spares.columns = 0) :
    searchMove cells w = some (match unwind (columnUnder cells w.lines) w.stack w.spares 0 with
      | (cost, none) => .unrepairable cost w
      | (cost, some (stack, spares)) => .move cost w { w with stack := stack, spares := spares }) := by
  simp only [searchMove, first, rows, columns, Nat.lt_irrefl, if_false]
  generalize unwind (columnUnder cells w.lines) w.stack w.spares 0 = backtrack
  obtain ⟨cost, _ | ⟨stack, spares⟩⟩ := backtrack <;> rfl

end

end

/-! ## The backtrack -/

section
variable (column : List Choice → Half) {top : Choice} (rest : List Choice) (sp : Spares) (pops : Nat)

/-- The pop of an untried row with a spare column for its alternative (R72). -/
theorem unwind_alternative {r : Half} (row : top = ⟨.row r, false⟩) (columns : 0 < sp.columns) :
    unwind column (top :: rest) sp pops =
      (pops + 2, some (⟨.col (column rest), true⟩ :: rest, ⟨sp.rows + 1, sp.columns - 1⟩)) := by
  subst row
  simp [unwind, columns]

theorem unwind_row {r : Half} (row : top.line = .row r) (spent : top.tried = true ∨ sp.columns = 0) :
    unwind column (top :: rest) sp pops = unwind column rest ⟨sp.rows + 1, sp.columns⟩ (pops + 1) := by
  rcases spent with spent | spent <;> simp [unwind, row, spent]

theorem unwind_column {c : Half} (col : top.line = .col c) :
    unwind column (top :: rest) sp pops = unwind column rest ⟨sp.rows, sp.columns + 1⟩ (pops + 1) := by
  simp [unwind, col]

end

/-! ## From region to region -/

section
variable (cells : Nat → List (Half × Half)) (spares : List Spares) (later : List Nat) {w : Work}

theorem nextMove_made {d : Decision} (made : (regionMove (cells w.region) w).1 = some d) :
    nextMove cells spares later w = d := by
  obtain ⟨v, region⟩ : ∃ v, regionMove (cells w.region) w = (some d, v) := ⟨_, Prod.ext made rfl⟩
  cases later <;> simp only [nextMove, region]

/-- The next move is that of the region under work, whatever the phase is called (R70). -/
theorem nextMove_congr {v : Work} (region : v.region = w.region)
    (same : regionMove (cells w.region) w = regionMove (cells w.region) v) :
    nextMove cells spares later w = nextMove cells spares later v := by
  cases later <;> simp only [nextMove, region, same]

theorem regionMove_closure (closure : w.phase = .closure) (complete : closureMove (cells w.region) w = none) :
    regionMove (cells w.region) w = regionMove (cells w.region) { w with phase := .search } := by
  simp only [regionMove, closure, complete]

theorem regionMove_search (search : w.phase = .search) :
    regionMove (cells w.region) w = (searchMove (cells w.region) w, w) := by
  simp only [regionMove, search]

end

/-- Settles O49: each choice by the least line over its limit, or by the first cell that nothing covers. -/
theorem closureAndSearchChooseTheirLines : Obligations.ClosureAndSearchChooseTheirLines := by
  refine ⟨fun cells w => ?_, ⟨fun cells w => ?_, fun column top rest sp pops => ?_⟩,
    fun cells lines stack r c mem bare least => ?_, fun cells spares later w => ⟨fun closure => ?_, fun search => ?_⟩⟩
  · simp only [← count_map]
    exact ⟨fun r => closureMove_row, fun c => closureMove_column, closureMove_complete⟩
  · refine ⟨searchMove_eq_none, fun r c mem bare least => ?_⟩
    have first := firstCell_uncovered mem bare least
    exact ⟨searchMove_row first, searchMove_column first, searchMove_backtrack first⟩
  · exact ⟨rfl, fun r row => unwind_alternative column rest sp pops row, fun r row => unwind_row column rest sp pops row,
      fun c col => unwind_column column rest sp pops col⟩
  · simp only [columnUnder, firstCell_uncovered mem bare least]
    rfl
  · refine ⟨fun d made => nextMove_made cells spares later ?_, fun complete =>
      nextMove_congr cells spares later rfl (regionMove_closure cells closure complete)⟩
    simp only [regionMove, closure, made]
  · refine ⟨fun d made => nextMove_made cells spares later (by rw [regionMove_search cells search, made]), fun solved =>
      ⟨fun last => ?_, fun r rest sp more own => ?_⟩⟩
    · subst last
      simp only [nextMove, regionMove_search cells search, solved]
    · subst more
      simp only [nextMove, regionMove_search cells search, solved, startRegion, own]
      rfl

end Sys2Proof.Machine
end

section
/-!
One ALLOCATOR_MOVE, and ANALYSE: how the idle engine takes a job, the site that the engine works on, the flags that
decide a site, what a decision does, and the end of a job (R64 to R68, R73 to R79).
-/

namespace Sys2Proof.Machine

/-! ## The idle engine takes a job -/

/-- The engine at the start of a job (R66). -/
def Engine.fresh : Engine := ⟨0, false, 0, 0, none⟩

/-- The allocator after the idle engine has taken the oldest job, if there is one (R66). -/
def Allocator.started (a : Allocator) : Allocator :=
  match a.engine, a.jobs with
  | none, _ :: _ => { a with engine := some .fresh }
  | _, _ => a

theorem State.startEngine_eq (s : State) : s.startEngine = { s with alloc := s.alloc.started } := rfl

theorem Allocator.started_busy (jobs : List Job) (e : Engine) :
    Allocator.started ⟨jobs, some e⟩ = ⟨jobs, some e⟩ := by cases jobs <;> rfl

theorem Allocator.started_idle (jobs : List Job) :
    Allocator.started ⟨jobs, none⟩ = ⟨jobs, if jobs = [] then none else some .fresh⟩ := by cases jobs <;> rfl

/-- A job joins, and the idle engine takes the oldest (R64, R66). -/
theorem Allocator.started_append (jobs : List Job) (engine : Option Engine) (j : Job) :
    Allocator.started ⟨jobs ++ [j], engine⟩ = ⟨jobs ++ [j], match engine with
      | none => some .fresh
      | some e => some e⟩ := by
  cases engine with
  | none => simp [started_idle]
  | some e => exact started_busy _ e

theorem State.serve_empty {s : State} (alloc : s.alloc = ⟨[], none⟩) : s.serve = s.emit := by
  have same : Allocator.started ⟨[], none⟩ = s.alloc := alloc.symm
  rw [serve, startEngine_eq, alloc, same]

theorem State.serve_busy {s : State} {jobs : List Job} {e : Engine} (alloc : s.alloc = ⟨jobs, some e⟩) :
    s.serve = s.emit := by
  rw [serve, startEngine_eq, alloc, Allocator.started_busy, ← alloc]

namespace State

/-! ## ANALYSE -/

section
variable (q : Request) {head force : Byte} {budget : Half} (s : State)

theorem analyseRequest_refused (out : 3 < head.toNat ∨ budget = 0 ∨ 1 < force.toNat) :
    s.analyseRequest q head budget force = (s.refuse q .badValue).emit := by
  rcases out with out | rfl | out
  · simp only [analyseRequest, headOf_above out]
  · unfold analyseRequest
    split <;> rfl
  · simp only [analyseRequest, onOff_above out]
    split <;> simp_all

theorem jobOf_isSome {h : HeadId} {s : State} : (s.jobOf h).isSome = true ↔ ∃ j ∈ s.alloc.jobs, j.head = h := by
  simp [jobOf, List.find?_isSome]

variable (h : HeadId) (f : Bool) (some_ : budget ≠ 0)
include some_

theorem analyseRequest_eq : s.analyseRequest q (byteOf h.val) budget (boolByte f) =
    if (s.head h).state ≠ .analysis then (s.refuse q .wrongState).emit
    else if (s.jobOf h).isSome then (s.refuse q .duplicate).emit
    else (s.addJob ⟨h, budget, f, .host q.tag⟩).serve := by
  simp only [analyseRequest, headOf_byteOf, onOff_boolByte]
  exact if_neg some_

/-- ANALYSE for a head in another state (R64, check 2). -/
theorem analyseRequest_wrongState (apart : (s.head h).state ≠ .analysis) :
    s.analyseRequest q (byteOf h.val) budget (boolByte f) = (s.refuse q .wrongState).emit :=
  (analyseRequest_eq q s h f some_).trans (if_pos apart)

variable (state : (s.head h).state = .analysis)
include state

theorem analyseRequest_duplicate (busy : ∃ j ∈ s.alloc.jobs, j.head = h) :
    s.analyseRequest q (byteOf h.val) budget (boolByte f) = (s.refuse q .duplicate).emit :=
  (analyseRequest_eq q s h f some_).trans ((if_neg (not_not_intro state)).trans (if_pos (jobOf_isSome.mpr busy)))

theorem analyseRequest_joins (free : ∀ j ∈ s.alloc.jobs, j.head ≠ h) :
    s.analyseRequest q (byteOf h.val) budget (boolByte f) = (s.addJob ⟨h, budget, f, .host q.tag⟩).serve := by
  refine (analyseRequest_eq q s h f some_).trans ((if_neg (not_not_intro state)).trans (if_neg fun busy => ?_))
  obtain ⟨j, mem, own⟩ := jobOf_isSome.mp busy
  exact free j mem own

end

theorem addJob_serve (j : Job) (s : State) : (s.addJob j).serve = { s with
    alloc := { jobs := s.alloc.jobs ++ [j]
               engine := match s.alloc.engine with
                 | none => some .fresh
                 | some e => some e } }.emit := by
  rw [serve, startEngine_eq, addJob, onAlloc_alloc, Allocator.started_append]
  rfl

theorem AtOwner.analyse {tag head force : Byte} {budget : Half} {q : Request} {p : ControlPort} {s : State}
    (o : s.AtOwner (.analyse tag head budget force) q p) : exec (.analyse tag head budget force) s =
      .next (State.analyseRequest q head budget force { s with port := p }) :=
  o.runs (State.analyseRequest · head budget force) rfl rfl

/-! ## The site under work -/

section
variable {s : State} {h : HeadId} {place : Nat}

theorem nextSite_none (passed : ∀ j : SiteId, place ≤ j.val →
    (s.site h j).state ≠ .ended ∧ (s.site h j).state ≠ .incomplete) : s.nextSite h place = none := by
  rw [nextSite, List.find?_eq_none]
  intro j _ waits
  simp only [Bool.and_eq_true, decide_eq_true_eq, Bool.or_eq_true, beq_iff_eq] at waits
  obtain ⟨ahead, state⟩ := waits
  exact state.elim (passed j ahead).1 (passed j ahead).2

/-- The first site from the engine's place on that is ENDED or INCOMPLETE (R67). -/
theorem nextSite_some {i : SiteId} (ahead : place ≤ i.val)
    (waits : (s.site h i).state = .ended ∨ (s.site h i).state = .incomplete)
    (first : ∀ j : SiteId, place ≤ j.val → j < i → (s.site h j).state ≠ .ended ∧ (s.site h j).state ≠ .incomplete) :
    s.nextSite h place = some i := by
  rw [nextSite, List.find?_eq_some_iff_getElem]
  refine ⟨by simp [ahead, waits], i.val, by simp, by simp, fun j less => ?_⟩
  have before : (⟨j, less.trans i.isLt⟩ : SiteId) < i := less
  by_cases at_ : place ≤ j
  · simp [first _ at_ before]
  · simp [at_]

theorem incompleteCount_eq (h : HeadId) (s : State) : s.incompleteCount h =
    ((List.finRange 32).filter fun i => (s.site h i).state == .incomplete || (s.site h i).state == .ended).length := by
  have sites : s.sites[h].toList = (List.finRange 32).map (s.site h) :=
    List.ext_getElem (by simp) fun i _ _ => by simp [State.site]
  rw [incompleteCount, sites, List.filter_map, List.length_map]
  rfl

end

/-! ## What a decision does -/

/-- What the engine does with its decision, by the steps left (R73 to R77). -/
def decided (job : Job) (e : Engine) (i : SiteId) (d : Decision) (s : State) : State :=
  match d with
  | .move cost before after =>
    if cost ≤ stepsLeft job e then s.keepWork i (e.used + cost) after else s.exhausted job e i before
  | .unrepairable cost before =>
    if cost ≤ stepsLeft job e then s.resolveSite job.head i (e.used + cost) .noRepair none
    else s.exhausted job e i before
  | .solved v =>
    s.resolveSite job.head i e.used .repaired (some (s.repairList job.head i (v.solved ++ v.regionLines)))

theorem allocate_eq (job : Job) (e : Engine) (i : SiteId) (w : Work) (s : State) : s.allocate job e i w =
    s.decided job e i (nextMove (fun r => s.capture.table.cells job.head i r)
      (((s.site job.head i).entry.map RunEntry.spares).getD [])
      ((s.siteRegions (s.site job.head i)).filter fun r => decide (w.region < r)) w) := rfl

section
variable {job : Job} {e : Engine} (s : State) (i : SiteId) {cost : Nat} (before after : Work)

theorem decided_move (paid : cost ≤ stepsLeft job e) :
    s.decided job e i (.move cost before after) = s.keepWork i (e.used + cost) after := if_pos paid

theorem decided_unrepairable (paid : cost ≤ stepsLeft job e) :
    s.decided job e i (.unrepairable cost before) = s.resolveSite job.head i (e.used + cost) .noRepair none := if_pos paid

/-- A decision that the steps left cannot pay (R73). -/
theorem decided_short {d : Decision} (costs : d = .move cost before after ∨ d = .unrepairable cost before)
    (short : stepsLeft job e < cost) : s.decided job e i d = s.exhausted job e i before := by
  rcases costs with rfl | rfl <;> exact if_neg (Nat.not_le.mpr short)

end

section
variable {s : State} {job : Job} {rest : List Job} {e : Engine}

theorem engineMove_none (alloc : s.alloc = ⟨[], none⟩) : s.engineMove = s := by
  simp only [engineMove, alloc]

theorem engineMove_job (alloc : s.alloc = ⟨job :: rest, some e⟩) : s.engineMove = s.moveJob job e := by
  simp only [engineMove, alloc]

section
variable (alloc : s.alloc = ⟨job :: rest, some e⟩)
include alloc

theorem keepWork_serve (i : SiteId) (used : Nat) (w : Work) : (s.keepWork i used w).serve =
    ({ s with alloc := ⟨job :: rest, some ⟨used, e.spent, e.resolved, i.val, some w⟩⟩ } : State).emit := by
  have kept : s.keepWork i used w =
      { s with alloc := ⟨job :: rest, some ⟨used, e.spent, e.resolved, i.val, some w⟩⟩ } := by
    simp only [keepWork, onAlloc, alloc, Option.map_some]
  rw [kept, serve_busy rfl]

theorem resolveSite_eq (h : HeadId) (i : SiteId) (used : Nat) (o : SiteOutcome) (list : Option (List RepairLine)) :
    s.resolveSite h i used o list = { s.onSite h i fun c =>
        { c with state := .resolved, outcome := some o, repairList := list, context := none } with
      alloc := ⟨job :: rest, some ⟨used, e.spent, e.resolved + 1, i.val + 1, none⟩⟩ } := by
  have same : (s.onSite h i (SiteContext.resolve o list)).alloc = ⟨job :: rest, some e⟩ := alloc
  simp only [resolveSite, onAlloc, same, Option.map_some]
  rfl

theorem resolveSite_serve (h : HeadId) (i : SiteId) (used : Nat) (o : SiteOutcome)
    (list : Option (List RepairLine)) : (s.resolveSite h i used o list).serve = ({ s.onSite h i fun c =>
        { c with state := .resolved, outcome := some o, repairList := list, context := none } with
      alloc := ⟨job :: rest, some ⟨used, e.spent, e.resolved + 1, i.val + 1, none⟩⟩ } : State).emit := by
  rw [resolveSite_eq alloc, serve_busy rfl]

/-- A forced job goes on with no steps left (R77). -/
theorem exhausted_forced (i : SiteId) (before : Work) (force : job.force = true) :
    (s.exhausted job e i before).serve = ({ s.onSite job.head i fun c =>
        { c with state := .resolved, outcome := some .unresolved, repairList := none, context := none } with
      alloc := ⟨job :: rest, some ⟨e.used, true, e.resolved + 1, i.val + 1, none⟩⟩ } : State).emit := by
  rw [exhausted, if_pos force, resolveSite_eq alloc, serve_busy (e := ⟨e.used, true, e.resolved + 1, i.val + 1, none⟩) rfl]
  rfl

/-- The working state that the engine holds plays no part in what it does with a decision. -/
theorem decided_work (i : SiteId) (d : Decision) (w : Option Work) :
    decided job { e with work := w } i d { s with alloc := ⟨job :: rest, some { e with work := w }⟩ } =
      s.decided job e i d := by
  obtain ⟨port, store, heads, arbiter, run, gates, capture, sites, _, bins, lines, wire, pending⟩ := s
  obtain rfl : _ = _ := alloc
  have stopped (before : Work) :
      exhausted job { e with work := w } i before
        ⟨port, store, heads, arbiter, run, gates, capture, sites, ⟨job :: rest, some { e with work := w }⟩, bins, lines,
          wire, pending⟩ =
      exhausted job e i before
        ⟨port, store, heads, arbiter, run, gates, capture, sites, ⟨job :: rest, some e⟩, bins, lines, wire, pending⟩ := by
    unfold exhausted
    split <;> rfl
  cases d with
  | move cost before after => exact ite_congr rfl (fun _ => rfl) fun _ => stopped before
  | unrepairable cost before => exact ite_congr rfl (fun _ => rfl) fun _ => stopped before
  | solved v => rfl

/-- The engine's next move on a site is the one it makes from a working state that it holds (R69, R78). -/
theorem allocate_resumes {i : SiteId} (site : s.nextSite job.head e.site = some i) (w : Work) : s.allocate job e i w =
    engineMove { s with alloc := ⟨job :: rest, some { e with work := some w }⟩ } := by
  have next : nextSite { s with alloc := ⟨job :: rest, some { e with work := some w }⟩ } job.head e.site = some i := site
  rw [engineMove_job rfl, moveJob, next, allocate_eq]
  exact (decided_work alloc i _ (some w)).symm

end

/-! ## The flags of a site -/

/-- The first flag that holds decides, or the lack of entries (R68). -/
theorem flagOutcome_some {c : SiteContext} {o : SiteOutcome} (decides : c.aborted.isSome ∧ o = .aborted ∨
    c.aborted = none ∧ (c.captureLost = true ∧ o = .captureLost ∨
      c.captureLost = false ∧ (c.expired = true ∧ o = .matchExpired ∨
        c.expired = false ∧ (c.strictFail = true ∧ o = .strictFail ∨
          c.strictFail = false ∧ (c.noRepair = true ∧ o = .noRepair ∨
            c.noRepair = false ∧ c.entriesHeld = 0 ∧ o = .pass))))) : c.flagOutcome = some o := by
  unfold SiteContext.flagOutcome
  rcases decides with ⟨aborted, rfl⟩ | ⟨aborted, ⟨lost, rfl⟩ | ⟨lost, ⟨expired, rfl⟩ | ⟨expired, ⟨strict, rfl⟩ |
    ⟨strict, ⟨spent, rfl⟩ | ⟨spent, empty, rfl⟩⟩⟩⟩⟩ <;> simp [*]

theorem flagOutcome_none {c : SiteContext} (aborted : c.aborted = none) (lost : c.captureLost = false)
    (expired : c.expired = false) (strict : c.strictFail = false) (spent : c.noRepair = false)
    (held : c.entriesHeld ≠ 0) : c.flagOutcome = none := by
  simp [SiteContext.flagOutcome, *]

/-! ## The regions of a site -/

theorem siteRegions_of {c : SiteContext} {plan : Plan} (own : s.sitePlan c = some plan) :
    s.siteRegions c = (List.range plan.regions.length).filter
      fun k => (plan.regions[k]?).any fun x => x.policy == .analyse := by
  rw [siteRegions, own]
  refine List.filter_congr fun k _ => ?_
  cases plan.regions[k]? <;> rfl

/-- The first ANALYSE region stands first among them (R69). -/
theorem siteRegions_first {c : SiteContext} {plan : Plan} {r : Nat} {region : Region} (own : s.sitePlan c = some plan)
    (here : plan.regions[r]? = some region) (analysed : region.policy = .analyse)
    (first : ∀ k < r, ∀ x, plan.regions[k]? = some x → x.policy ≠ .analyse) : ∃ later, s.siteRegions c = r :: later := by
  have found : (s.siteRegions c).head? = some r := by
    rw [siteRegions_of own, List.head?_filter, List.find?_range_eq_some]
    refine ⟨by simp [here, analysed], List.mem_range.mpr (List.getElem?_eq_some_iff.mp here).1, fun k less => ?_⟩
    cases other : plan.regions[k]? with
    | none => rfl
    | some x => simpa using first k less x other
  exact ⟨_, (List.cons_head?_tail found).symm⟩

/-- The repair list of the regions: the lines of the table, then those found (R74). -/
theorem repairList_eq {plan : Plan} (h : HeadId) (i : SiteId) (found : List RepairLine)
    (own : s.sitePlan (s.site h i) = some plan) : s.repairList h i found =
      ((List.range plan.regions.length).filter fun k => (plan.regions[k]?).any fun x => x.policy == .analyse).flatMap
        fun r => (s.capture.table.filterMap fun x =>
          if x.2.head = h ∧ x.2.site = i ∧ x.2.region = r then
            match x.2.key with
            | .cell _ _ => none
            | .rowLine a => some ⟨r, .row a⟩
            | .colLine a => some ⟨r, .col a⟩
          else none) ++ found.filter fun l => l.region == r := by
  rw [repairList, siteRegions_of own]
  refine List.flatMap_congr fun r _ => congrArg (· ++ _) (List.filterMap_congr fun x _ => ?_)
  refine if_congr (by rw [Entry.ofRegion_iff]) ?_ rfl
  cases x.2.key <;> rfl

/-! ## The end of a job -/

/-- The report of a job reads and changes the port alone (R79). -/
theorem reportJob_eq {t : State} (job : Job) (resolved incomplete used : Nat) (port : t.port = s.port) :
    t.reportJob job resolved incomplete used = { t with port := match job.origin with
      | .host tag => { s.port with replies := s.port.replies ++
          [(⟨0x44#8, tag, .ok, byteOf resolved :: byteOf incomplete :: be16OfNat used, true⟩ : Reply)] }
      | .auto => (if s.port.config.analysisNotices then
          s.queueNotice (.analysisDone job.head resolved incomplete used) else s).port } := by
  obtain ⟨h, budget, force, origin⟩ := job
  cases origin with
  | host tag =>
    simp only [reportJob, answer, onPort, port]
    rfl
  | auto =>
    simp only [reportJob, port]
    split
    · simp only [queueNotice, onPort, port]
    · simp only [← port]

/-- The loading of a frame neither reads nor changes the allocator (R165). -/
theorem loadFrame_onAlloc (h : HeadId) (f : Allocator → Allocator) (s : State) :
    (s.onAlloc f).loadFrame h = (s.loadFrame h).onAlloc f := by
  have sites : (s.onAlloc f).sites = s.sites := rfl
  have plans : (s.onAlloc f).planAt = s.planAt := rfl
  unfold loadFrame
  simp only [sites, plans]
  cases s.sites[h].toList.findSome? fun c => c.entry with
  | none => rfl
  | some entry =>
    dsimp only
    cases s.planAt entry.slot <;> rfl

/-- The end of a job: its bin frame, the report, and the next job (R79, R165). -/
theorem endJob_serve (alloc : s.alloc = ⟨job :: rest, some e⟩) : (s.endJob job e).serve =
    ({ (if s.incompleteCount job.head = 0 then s.loadFrame job.head else s) with
      alloc := ⟨rest, if rest = [] then none else some .fresh⟩
      port := match job.origin with
        | .host tag => { s.port with replies := s.port.replies ++
            [(⟨0x44#8, tag, .ok, byteOf e.resolved :: byteOf (s.incompleteCount job.head) :: be16OfNat e.used, true⟩ :
              Reply)] }
        | .auto => (if s.port.config.analysisNotices then
            s.queueNotice (.analysisDone job.head e.resolved (s.incompleteCount job.head) e.used) else s).port } :
      State).emit := by
  have loaded : (if s.incompleteCount job.head = 0
      then (s.onAlloc fun a => { jobs := a.jobs.tail, engine := none }).loadFrame job.head
      else s.onAlloc fun a => { jobs := a.jobs.tail, engine := none }) =
      (if s.incompleteCount job.head = 0 then s.loadFrame job.head else s).onAlloc
        fun a => { jobs := a.jobs.tail, engine := none } := by
    split
    · exact loadFrame_onAlloc ..
    · rfl
  have same : SameBut [.bins, .heads] s (if s.incompleteCount job.head = 0 then s.loadFrame job.head else s) :=
    (loadFrame_same _ s).ite (.refl _ s)
  have tail : (if s.incompleteCount job.head = 0 then s.loadFrame job.head else s).alloc = _ :=
    (same .alloc (by decide)).trans alloc
  have port : ((if s.incompleteCount job.head = 0 then s.loadFrame job.head else s).onAlloc
      fun a => { jobs := a.jobs.tail, engine := none }).port = s.port := same .port (by decide)
  unfold endJob serve
  simp only
  rw [loaded, reportJob_eq job _ _ _ port, startEngine_eq]
  simp only [onAlloc_alloc, tail, List.tail_cons, Allocator.started_idle]
  rfl

end

end State

/-! ## The obligations -/

/-- Settles O47: the checks of ANALYSE, and the end of a job when no site is left to the engine. -/
theorem jobsJoinAndEnd : Obligations.JobsJoinAndEnd := by
  refine ⟨fun tag head budget force q p s o => ⟨fun out => ?_, fun h f own forced some_ => ?_⟩,
    fun s job rest e alloc passed => ?_⟩
  · rw [o.analyse, State.analyseRequest_refused q _ out, refuse_emit]
  · subst own forced
    rw [o.analyse]
    refine ⟨fun apart => ?_, fun state busy => ?_, fun state free => ?_⟩
    · rw [State.analyseRequest_wrongState q { s with port := p } h f some_ apart, refuse_emit]
    · rw [State.analyseRequest_duplicate q { s with port := p } h f some_ state busy, refuse_emit]
    · rw [State.analyseRequest_joins q { s with port := p } h f some_ state free, State.addJob_serve, o.request rfl]
      rfl
  · have last : s.engineMove = s.endJob job e := by
      rw [State.engineMove_job alloc, State.moveJob, State.nextSite_none passed]
    show Host.Outcome.next s.engineMove.serve = _
    rw [last, State.endJob_serve alloc, State.incompleteCount_eq]
    rfl

/-- Settles O48: the flags of the site, the working state that the engine takes up, and what it does with its decision
by the steps left. -/
theorem theEngineDecidesByFlagsAndBudget : Obligations.TheEngineDecidesByFlagsAndBudget := by
  refine ⟨⟨fun s alloc => ?_, fun s job rest e i alloc idle ahead waits first => ?_⟩,
    fun s job rest e i w d plan analysed alloc site work own regions decision => ?_⟩
  · show Host.Outcome.next s.engineMove.serve = _
    rw [State.engineMove_none alloc, State.serve_empty alloc]
  · have site := State.nextSite_some ahead waits first
    have taken : s.engineMove = s.takeSite job e i := by
      rw [State.engineMove_job alloc, State.moveJob, site]
      simp only [idle]
    refine ⟨fun o decides => ?_, fun aborted lost expired strict spent held => ?_⟩
    · show Host.Outcome.next s.engineMove.serve = _
      rw [taken, State.takeSite, State.flagOutcome_some decides]
      simp only
      rw [State.resolveSite_serve alloc, ← idle]
    · have open_ := State.flagOutcome_none aborted lost expired strict spent held
      have resumes (x : Work) (goes : s.takeSite job e i = s.allocate job e i x) : exec .allocatorMove s =
          exec .allocatorMove { s with alloc := ⟨job :: rest, some { e with work := some x }⟩ } :=
        congrArg (fun u : State => Host.Outcome.next u.serve)
          (taken.trans (goes.trans (State.allocate_resumes alloc site x)))
      refine ⟨fun x context => resumes x ?_, fun plan entry r region spares none_ own enters here analysed before left =>
        resumes _ ?_⟩
      · simp only [State.takeSite, open_, context]
      · obtain ⟨later, regions⟩ := State.siteRegions_first own here analysed before
        simp only [State.takeSite, open_, none_, regions, enters, startRegion, Option.map_some, Option.getD_some, left]
  · have made : exec .allocatorMove s = .next (s.decided job e i d).serve := by
      show Host.Outcome.next s.engineMove.serve = _
      rw [State.engineMove_job alloc, State.moveJob, site]
      simp only [work]
      rw [State.allocate_eq, State.siteRegions_of own, ← regions, ← decision]
    rw [made]
    refine ⟨fun cost before after this paid => ?_, fun cost before this paid => ?_, fun v this => ?_,
      fun cost before after this short => ⟨fun force => ?_, fun free => ?_⟩⟩
    · rw [this, State.decided_move s i before after paid, State.keepWork_serve alloc]
    · rw [this, State.decided_unrepairable s i before paid, State.resolveSite_serve alloc]
    · rw [this, State.decided, State.resolveSite_serve alloc, State.repairList_eq _ _ _ own, regions]
      rfl
    · rw [State.decided_short s i before after this short, State.exhausted_forced alloc i before force]
    · rw [State.decided_short s i before after this short, State.exhausted, if_neg (Bool.eq_false_iff.mp free)]

end Sys2Proof.Machine
end

section
/-!
The Run Arbiter: heads join the Run Request Queue and leave it (R84, R86), and a step ends with the grant when its four
conditions hold (R88 to R90).
-/

namespace Sys2Proof.Machine

open State

namespace State

/-! ## Joining and leaving the queue -/

/-- A head joins with a LOADED slot (R84, R36). -/
theorem join_loaded {h : HeadId} {i : SlotId} {s : State} {plan : Plan} (loaded : s.planAt i = some plan) :
    s.join h i = { s.setHeadState h .queued with
      arbiter := { s.arbiter with queue := s.arbiter.queue ++
        [⟨h, i, plan.planClass, s.store.classMap[plan.planClass]⟩] }
      store := { s.store with slots := upd s.store.slots i fun x => { x with useCount := x.useCount + 1 } } } := by
  simp only [join, loaded]
  rfl

/-- With the slot EMPTY nothing happens (R85). -/
theorem join_empty {h : HeadId} {i : SlotId} {s : State} (empty : s.planAt i = none) : s.join h i = s := by
  simp only [join, empty]

/-- A QUEUED head leaves with its entry, and the use count of the entry's slot falls (R86). -/
theorem withdraw_queued {h : HeadId} {x : HeadState} {e : QueueEntry} {s : State} (queued : (s.head h).state = .queued)
    (entry : s.arbiter.queue.find? (fun e => e.head == h) = some e) :
    s.withdraw h x = { s.setHeadState h x with
      arbiter := { s.arbiter with queue := s.arbiter.queue.filter fun e => e.head != h }
      store := { s.store with slots := upd s.store.slots e.slot fun x => { x with useCount := x.useCount - 1 } } } := by
  have slot : s.headSlot h = some e.slot := by simp only [headSlot, queued, entry, Option.map_some]
  rw [withdraw, slot]
  rfl

section
variable (q : Request) (s : State)

theorem runRequestRequest_noSlot (h : HeadId) {slot : Byte} (above : 7 < slot.toNat) :
    s.runRequestRequest q (byteOf h.val) slot = (s.refuse q .badValue).emit := by
  simp only [runRequestRequest, headOf_byteOf, slotOf_above above]

theorem runRequestRequest_wrongState {h : HeadId} {i : SlotId}
    (bars : (s.head h).state ≠ .idle ∨ s.planAt i = none) :
    s.runRequestRequest q (byteOf h.val) (byteOf i.val) = (s.refuse q .wrongState).emit := by
  simp only [runRequestRequest, headOf_byteOf, slotOf_byteOf]
  rcases bars with busy | empty
  · exact if_pos busy
  · rw [empty]
    exact ite_self _

theorem runRequestRequest_joins {h : HeadId} {i : SlotId} {plan : Plan} (idle : (s.head h).state = .idle)
    (loaded : s.planAt i = some plan) :
    s.runRequestRequest q (byteOf h.val) (byteOf i.val) = ((s.join h i).answerOk q []).settle := by
  simp only [runRequestRequest, headOf_byteOf, slotOf_byteOf, idle, loaded]
  rfl

theorem runCancelRequest_wrongState {h : HeadId} (apart : (s.head h).state ≠ .queued) :
    s.runCancelRequest q (byteOf h.val) = (s.refuse q .wrongState).emit := by
  simp only [runCancelRequest, headOf_byteOf]
  exact if_pos apart

theorem runCancelRequest_withdraws {h : HeadId} (queued : (s.head h).state = .queued) :
    s.runCancelRequest q (byteOf h.val) = ((s.withdraw h .idle).answerOk q []).emit := by
  simp only [runCancelRequest, headOf_byteOf]
  exact if_neg (not_not_intro queued)

end

/-! ## The HEAD_EVENT notices before a grant -/

theorem flushHead_head (h k : HeadId) (s : State) :
    (s.flushHead h).head k = if k = h then { s.head h with raised := 0 } else s.head k := by
  rw [← onHead_head h k (fun c => { c with raised := 0 })]
  unfold flushHead
  simp only
  split
  · rfl
  · exact (queueNotice_same _ _).head (by decide) k

/-- The notices leave no event waiting and change nothing else of a head (R158). -/
theorem flushEvents_head (k : HeadId) (s : State) : s.flushEvents.head k = { s.head k with raised := 0 } := by
  have loop : s.flushEvents = s.forHeads (BitVec.allOnes 4) flushHead := rfl
  rw [loop, forHeads_head (g := fun c => { c with raised := 0 }) flushHead_head]
  exact if_pos (by revert k; decide)

theorem flushEvents_arbiter (s : State) : s.flushEvents.arbiter = s.arbiter := flushEvents_same s .arbiter (by decide)
theorem flushEvents_run (s : State) : s.flushEvents.run = s.run := flushEvents_same s .run (by decide)
theorem flushEvents_wire (s : State) : s.flushEvents.wire = s.wire := flushEvents_same s .wire (by decide)
theorem flushEvents_planAt (i : SlotId) (s : State) : s.flushEvents.planAt i = s.planAt i :=
  congrArg (fun p : PlanStore => p.slots[i].record) (flushEvents_same s .store (by decide))

theorem flushEvents_eligible (s : State) : s.flushEvents.eligible = s.eligible :=
  funext fun e => by simp only [eligible, flushEvents_head]

/-! ## The winner -/

/-- The first of the highest level wins (R89). -/
theorem winnerOf_first {w : QueueEntry} {before after : List QueueEntry} (lower : ∀ e ∈ before, e.level < w.level)
    (most : ∀ e ∈ after, e.level ≤ w.level) : winnerOf (before ++ w :: after) = some w := by
  induction before with
  | nil =>
    rw [List.nil_append, winnerOf]
    cases later : winnerOf after with
    | none => rfl
    | some v => exact if_neg (most v (winnerOf_mem later)).not_gt
  | cons e rest ih =>
    rw [List.cons_append, winnerOf, ih fun d mem => lower d (List.mem_cons_of_mem _ mem)]
    exact if_pos (lower e List.mem_cons_self)

theorem winner_first {s : State} {w : QueueEntry} {before after : List QueueEntry}
    (queue : s.arbiter.queue = before ++ w :: after) (eligible : s.eligible w = true)
    (lower : ∀ e ∈ before, s.eligible e = true → e.level < w.level)
    (most : ∀ e ∈ after, s.eligible e = true → e.level ≤ w.level) : s.winner = some w := by
  rw [winner, queue, List.filter_append, List.filter_cons_of_pos eligible]
  exact winnerOf_first (fun e mem => lower e (List.mem_filter.mp mem).1 (List.mem_filter.mp mem).2)
    fun e mem => most e (List.mem_filter.mp mem).1 (List.mem_filter.mp mem).2

theorem winner_none {s : State} (out : ∀ e ∈ s.arbiter.queue, s.eligible e = false) : s.winner = none := by
  rw [winner, List.filter_eq_nil_iff.mpr fun e mem => by simp [out e mem]]
  rfl

/-! ## The grant -/

theorem joins_iff {s : State} {w e : QueueEntry} {p : Plan} : s.joins w p e = true ↔
    e = w ∨ (s.eligible e = true ∧ e.slot = w.slot ∧ p.joinSet.getLsbD e.head.val = true) := by
  simp [joins, and_assoc]

/-- Two loops over the same heads whose bodies keep a relation between their states. -/
theorem forHeads_related {R : State → State → Prop} {f g : HeadId → State → State}
    (body : ∀ h t u, R t u → R (f h t) (g h u)) (set : HeadSet) {s t : State} (start : R s t) :
    R (s.forHeads set f) (t.forHeads set g) := by
  unfold forHeads
  generalize allHeads = l
  induction l generalizing s t with
  | nil => exact start
  | cons h rest ih =>
    refine ih ?_
    show R (if set.getLsbD h.val then f h s else s) (if set.getLsbD h.val then g h t else t)
    split
    · exact body h s t start
    · exact start

/-- RUN_BEGIN goes down the link of each head of the group, with the enable set of the head (R90). -/
theorem forHeads_grantHead_wire (number : Half) (group : HeadSet) (s : State) :
    (s.forHeads group (grantHead number)).wire =
      s.sending [] fun h => onlyIf (group.getLsbD h.val) (.runBegin number (s.head h).enableSet) := by
  refine Eq.trans ?_ (congrArg State.wire (forHeads_sendHead s group fun h => .runBegin number (s.head h).enableSet))
  refine (forHeads_related (s := s) (t := s)
    (R := fun t u => t.wire = u.wire ∧ (∀ k, (t.head k).link = (u.head k).link) ∧
      ∀ k, (t.head k).enableSet = (s.head k).enableSet)
    (fun h t u ⟨wire, links, enables⟩ => ⟨?_, fun k => ?_, fun k => ?_⟩) group ⟨rfl, fun _ => rfl, fun _ => rfl⟩).1
  · rw [grantHead, setHeadState, sendHead_onHead h _ t rfl, sendHead_sending, enables h]
    exact sending_congr wire links _ _
  · rw [grantHead_head, show (u.sendHead h _).head k = u.head k from (sendHead_same h _ u).head (by decide) k, ← links k]
    split
    · rename_i own
      rw [own]
    · rfl
  · rw [grantHead_head, ← enables k]
    split
    · rename_i own
      rw [own]
    · rfl

section
variable (w : QueueEntry) (p : Plan) (s : State)

theorem grantTo_arbiter : (s.grantTo w p).arbiter =
    { s.arbiter with queue := s.arbiter.queue.filter fun e => !s.joins w p e } :=
  forHeads_same (grantHead_same (nextRunNumber s.run.runNumber)) (s.groupOf w p) _ .arbiter (by decide)

/-- The Run Record of the new run (R90, R91). -/
theorem grantTo_run : (s.grantTo w p).run = { s.run with
    runNumber := nextRunNumber s.run.runNumber, slot := some w.slot, group := s.groupOf w p, state := .starting,
    returnState := none, recordCount := 0, exceptions := 0, masks := p.masks, hold := none, paused := false, tallied := 0,
    abortCause := none, startFailure := none, timer := some Config.fiftyMs } :=
  forHeads_same (grantHead_same (nextRunNumber s.run.runNumber)) (s.groupOf w p) _ .run (by decide)

theorem grantTo_wire : (s.grantTo w p).wire =
    s.sending [.start (nextRunNumber s.run.runNumber) p.patternId] fun h =>
      onlyIf ((s.groupOf w p).getLsbD h.val) (.runBegin (nextRunNumber s.run.runNumber) (s.head h).enableSet) := by
  refine (forHeads_grantHead_wire (nextRunNumber s.run.runNumber) (s.groupOf w p) _).trans ?_
  refine sending_sending s [.start (nextRunNumber s.run.runNumber) p.patternId] [] (fun _ => []) _ _ ?_ ?_
  · exact fun _ => rfl
  · exact congrArg State.wire (sendSource_sending _ _)

end

section
variable {s : State}

theorem grantCheck_grants {w : QueueEntry} {p : Plan} (enabled : s.arbiter.enabled = true) (idle : s.run.state = .none)
    (ready : s.run.linkReady = true) (winner : s.winner = some w) (loaded : s.planAt w.slot = some p) :
    s.grantCheck = s.grantTo w p := by
  simp only [grantCheck, enabled, idle, ready, winner, loaded, and_self, if_true]

/-- Without one of the conditions no grant is made (R88). -/
theorem grantCheck_bars (bars : s.arbiter.enabled = false ∨ s.run.state ≠ .none ∨ s.run.linkReady = false ∨
    ∀ e ∈ s.arbiter.queue, s.eligible e = false) : s.grantCheck = s := by
  unfold grantCheck
  split
  · rename_i conditions
    obtain ⟨enabled, idle, ready⟩ := conditions
    rcases bars with off | running | suspect | out
    · exact absurd (enabled.symm.trans off) (by decide)
    · exact absurd idle running
    · exact absurd (ready.symm.trans suspect) (by decide)
    · rw [winner_none out]
  · rfl

end

end State

/-! ## The obligations -/

/-- Settles O27: the checks of each request, and what the queue, the head and the use count become. -/
theorem headsJoinAndLeaveTheQueue : Obligations.HeadsJoinAndLeaveTheQueue := by
  refine ⟨fun tag slot h q p s owner => ?_, fun tag h q p s owner => ?_, fun tag enable q p s owner => ?_⟩
  · have run := owner.runs (runRequestRequest · (byteOf h.val) slot) rfl rfl
    simp only [run]
    refine ⟨fun above => ?_, ?_⟩
    · rw [runRequestRequest_noSlot q _ h above, refuse_emit]
    · rintro i rfl
      refine ⟨fun bars => ?_, fun plan idle loaded => ?_⟩
      · rw [runRequestRequest_wrongState q { s with port := p } bars, refuse_emit]
      · rw [runRequestRequest_joins q { s with port := p } idle loaded, join_loaded (s := { s with port := p }) loaded]
        rfl
  · have run := owner.runs (runCancelRequest · (byteOf h.val)) rfl rfl
    simp only [run]
    refine ⟨fun apart => ?_, fun e queued entry => ?_⟩
    · rw [runCancelRequest_wrongState q { s with port := p } apart, refuse_emit]
    · rw [runCancelRequest_withdraws q { s with port := p } queued,
        withdraw_queued (s := { s with port := p }) queued entry]
      rfl
  · have run := owner.runs (arbiterSetRequest · enable) rfl rfl
    refine ⟨fun b on => ?_, fun above => ?_⟩
    · rw [run, on, arbiterSetRequest, onOff_boolByte]
      rfl
    · rw [run, arbiterSetRequest, onOff_above above]
      rfl

/-- Settles O28: the HEAD_EVENT notices leave the conditions of the grant, which the winner's group then gets. -/
theorem theArbiterGrantsTheHighestLevel : Obligations.TheArbiterGrantsTheHighestLevel := by
  refine ⟨fun s before after w plan enabled idle ready queue eligible lower most loaded => ?_, fun s bars => ?_⟩
  · have arbiter := flushEvents_arbiter s
    have run := flushEvents_run s
    have eligibles := flushEvents_eligible s
    have grant : s.flushEvents.grantCheck = s.flushEvents.grantTo w plan :=
      grantCheck_grants (by rw [arbiter, enabled]) (by rw [run, idle]) (by rw [run, ready])
        (winner_first (by rw [arbiter, queue]) (by rw [eligibles, eligible]) (by rwa [eligibles]) (by rwa [eligibles]))
        (by rw [flushEvents_planAt, loaded])
    refine ⟨s.flushEvents.groupOf w plan, s.arbiter.queue.filter fun e => !s.flushEvents.joins w plan e, fun h => ?_,
      ⟨List.filter_sublist, fun e => ?_⟩, ?_, ?_, fun h => ?_, ?_⟩
    · simp only [groupOf_iff, joins_iff, arbiter, eligibles]
    · rw [List.mem_filter, Bool.not_eq_true', ← Bool.not_eq_true, joins_iff, eligibles]
    · show s.flushEvents.grantCheck.arbiter = _
      rw [grant, grantTo_arbiter, arbiter]
    · show s.flushEvents.grantCheck.run = _
      rw [grant, grantTo_run, run]
      rfl
    · show s.flushEvents.grantCheck.head h = _
      rw [grant, grantTo_head, flushEvents_head]
      split <;> rfl
    · show s.flushEvents.grantCheck.wire = _
      rw [grant, grantTo_wire, run]
      simp only [flushEvents_head]
      exact sending_congr (flushEvents_wire s) (fun h => by rw [flushEvents_head]) _ _
  · have none_ : s.flushEvents.grantCheck = s.flushEvents := grantCheck_bars <| by
      simpa only [flushEvents_arbiter, flushEvents_run, flushEvents_eligible] using bars
    refine ⟨?_, ?_, ?_, fun h => ?_⟩
    · show s.flushEvents.grantCheck.arbiter = _
      rw [none_, flushEvents_arbiter]
    · show s.flushEvents.grantCheck.run = _
      rw [none_, flushEvents_run]
    · show s.flushEvents.grantCheck.wire = _
      rw [none_, flushEvents_wire]
    · show s.flushEvents.grantCheck.head h = _
      rw [none_, flushEvents_head]

end Sys2Proof.Machine
end

section
/-!
The Feed Link: feed records and ill-formed messages by the state of the run, the faults and aborts they begin, and
FEED_RESET (R93, R94, R97, R98, R101, R103, R104, R107, R113 to R117, R129, R130).
-/

namespace Sys2Proof.Machine

open State

/-! ## What a message is -/

/-- The fields of a well-formed message, by its kind (R188, 11.5). -/
theorem sourceFields_isSome {kind : Byte} {fields : List Byte} (made : (sourceFields kind fields).isSome = true) :
    (kind = 0x13#8 ∧ 1 ≤ fields.length ∧ fields.length ≤ 1024) ∨
      ((kind = 0x15#8 ∨ kind = 0x16#8 ∨ kind = 0x17#8 ∨ kind = 0x18#8) ∧ fields = []) ∨
      (kind = 0x12#8 ∧ fields.length = 1) ∨ (kind = 0x11#8 ∧ fields.length = 2) ∨
      (kind = 0x14#8 ∧ fields.length = 2 ∧ fields ≠ [0, 0]) := by
  unfold sourceFields at made
  split at made
  · rename_i block
    split at made
    · rename_i fits
      simp only [blockFits, Bool.and_eq_true, decide_eq_true_eq] at fits
      exact .inl ⟨block, fits⟩
    · cases made
  · split at made
    · grind
    · grind
    · rename_i a b
      split at made
      · exact .inr (.inr (.inr (.inl ⟨‹_›, rfl⟩)))
      · split at made
        · rename_i gate
          obtain ⟨kind, limit⟩ := gate
          refine .inr (.inr (.inr (.inr ⟨kind, rfl, fun zero => limit ?_⟩)))
          cases zero
          rfl
        · cases made
    · cases made

/-- The ways in which the bytes of a message are ill-formed (R93, R188). -/
theorem sourceInput_none {bytes : List Byte}
    (ill : (∃ k, bytes.head? = some k ∧ (k.toNat < 0x11 ∨ 0x18 < k.toNat)) ∨ bytes.length < 3 ∨
      (∃ k hi lo rest, bytes = k :: hi :: lo :: rest ∧ rest.length ≠ (half hi lo).toNat) ∨
      (∃ k hi lo rest, bytes = k :: hi :: lo :: rest ∧
        ((k = 0x11#8 ∧ rest.length ≠ 2) ∨ (k = 0x12#8 ∧ rest.length ≠ 1) ∨
          (k = 0x13#8 ∧ (rest = [] ∨ 1024 < rest.length)) ∨
          (k = 0x14#8 ∧ (rest.length ≠ 2 ∨ rest = [0, 0])) ∨ (0x15 ≤ k.toNat ∧ rest ≠ [])))) :
    sourceInput bytes = none := by
  match bytes, ill with
  | [], _ | [_], _ | [_, _], _ => rfl
  | kind :: hi :: lo :: fields, ill =>
    simp only [sourceInput]
    split
    · rename_i counted
      refine Option.not_isSome_iff_eq_none.mp fun made => ?_
      have kinds := sourceFields_isSome made
      rcases ill with ⟨k, first, out⟩ | short | ⟨k, x, y, rest, same, wrong⟩ | ⟨k, x, y, rest, same, wrong⟩
      · obtain rfl := Option.some.inj first
        rcases kinds with ⟨rfl, _⟩ | ⟨rfl | rfl | rfl | rfl, _⟩ | ⟨rfl, _⟩ | ⟨rfl, _⟩ | ⟨rfl, _⟩ <;> simp at out
      · simp only [List.length_cons] at short
        omega
      · cases same
        exact wrong counted
      · cases same
        clear counted made
        rcases kinds with ⟨rfl, one, most⟩ | ⟨kinds, rfl⟩ | ⟨rfl, one⟩ | ⟨rfl, two⟩ | ⟨rfl, two, limit⟩
        · rcases (by simpa using wrong : fields = [] ∨ 1024 < fields.length) with rfl | long
          · simp at one
          · omega
        · rcases kinds with rfl | rfl | rfl | rfl <;> simp at wrong
        · exact (by simpa using wrong : ¬ fields.length = 1) one
        · exact (by simpa using wrong : ¬ fields.length = 2) two
        · rcases (by simpa using wrong : ¬ fields.length = 2 ∨ fields = [0, 0]) with other | zero
          · exact other two
          · exact limit zero
    · rfl

namespace State

section
variable {s : State}

/-- While a FEED_RESET is pending every message but RESET_DONE is discarded (R107). -/
theorem sourceMessage_pending {m : Option SourceInput} (pending : s.run.resetPending.isSome = true)
    (other : m ≠ some .resetDone) : s.sourceMessage m = s := by
  obtain ⟨tag, pending⟩ := Option.isSome_iff_exists.mp pending
  unfold sourceMessage
  rw [pending]
  simp only

variable (free : s.run.resetPending = none)
include free

theorem sourceMessage_record (r : FeedRecord) : s.sourceMessage (some (.record r)) = s.arriveRecord r := by
  simp only [sourceMessage, free]

theorem sourceMessage_illFormed : s.sourceMessage none = s.illFormed := by
  simp only [sourceMessage, free]

theorem sourceMessage_resetDone : s.sourceMessage (some .resetDone) = s := by
  simp only [sourceMessage, free]

end

theorem arriveRecord_held (r : FeedRecord) {s : State} (held : s.run.state = .held) :
    s.arriveRecord r = s.holdRecord r := by
  simp only [arriveRecord, held]

/-- An ill-formed message in a run that is not being aborted is FEED_FORMAT (R93). -/
theorem illFormed_running {s : State} (running : s.run.state ≠ .none) (going : s.run.state ≠ .halting) :
    s.illFormed = s.feedFault .feedFormat := by
  unfold illFormed
  split
  · contradiction
  · contradiction
  · rfl

end State

theorem blockFits_iff {payload : List Byte} : blockFits payload = true ↔ 1 ≤ payload.length ∧ payload.length ≤ 1024 := by
  simp [blockFits]

section
variable (s : State)

theorem exec_block {payload : List Byte} (one : 1 ≤ payload.length) (most : payload.length ≤ 1024) :
    exec (.block payload) s = .next (s.sourceMessage (some (.record (.block payload)))).emit := by
  show Host.Outcome.next (s.sourceMessage (if _ then _ else _)).emit = _
  rw [if_pos (blockFits_iff.mpr ⟨one, most⟩)]

theorem exec_block_illFormed {payload : List Byte} (misfit : payload = [] ∨ 1024 < payload.length) :
    exec (.block payload) s = .next (s.sourceMessage none).emit := by
  show Host.Outcome.next (s.sourceMessage (if _ then _ else _)).emit = _
  rw [if_neg fun fits => ?_]
  have := blockFits_iff.mp fits
  rcases misfit with rfl | long
  · simp at this
  · omega

theorem exec_gateOpen {limit : Half} (some_ : limit ≠ 0) :
    exec (.gateOpen limit) s = .next (s.sourceMessage (some (.record (.gateOpen limit)))).emit := by
  show Host.Outcome.next (s.sourceMessage (if limit = 0#16 then _ else _)).emit = _
  rw [if_neg (show ¬ limit = 0#16 from some_)]

end

/-! ## Aborts and faults -/

namespace State

section
variable {s : State} (running : s.run.state ≠ .none) (going : s.run.state ≠ .halting)
include running going

/-- The abort: HALT to the source, RUN_STOP to the group, and HALTING for 50 ms (R101). -/
theorem abortRun_eq (cause : RunAbort) : s.abortRun cause = { s with
    run := { s.run with abortCause := some cause, buffer := [], hold := none, returnState := none, paused := false,
                        tallied := 0, state := .halting, timer := some 5000 }
    wire := s.sending [.halt] fun h => onlyIf (s.inGroup h) .runStop } := by
  have wire : ((s.sendSource .halt).forHeads s.run.group fun h => sendHead h .runStop).wire =
      s.sending [.halt] fun h => onlyIf (s.inGroup h) .runStop := by
    rw [forHeads_sendHead]
    refine sending_sending s [.halt] [] (fun _ => []) _ _ ?_ ?_
    · exact fun _ => rfl
    · exact congrArg State.wire (sendSource_sending s .halt)
  rw [abortRun, if_neg (not_or.mpr ⟨running, going⟩), ← wire]
  simp only [forHeads_sendHead]
  rfl

/-- A fault sets its flags and begins the abort with cause FEED (R129, R101). -/
theorem feedFault_eq (f : RunFault) : s.feedFault f = { s with
    port := { s.port with flags := s.port.flags ||| PartFlag.feedFault }
    run := { s.run with exceptions := s.run.exceptions ||| 1#9 <<< f.bit, abortCause := some .feed, buffer := [],
                        hold := none, returnState := none, paused := false, tallied := 0, state := .halting,
                        timer := some 5000 }
    wire := s.sending [.halt] fun h => onlyIf (s.inGroup h) .runStop } :=
  abortRun_eq (s := (s.onRun (RunController.setException f.bit)).setPartFlag PartFlag.feedFault) running going .feed

end

section
variable (q : Request) {h : HeadId} (s : State)

theorem runDropHeadRequest_wrongState (apart : (s.head h).state ≠ .inRun) :
    s.runDropHeadRequest q (byteOf h.val) = (s.refuse q .wrongState).emit := by
  simp only [runDropHeadRequest, headOf_byteOf]
  exact if_pos apart

theorem runDropHeadRequest_drops (inRun : (s.head h).state = .inRun) :
    s.runDropHeadRequest q (byteOf h.val) = ((s.dropHead h .host).answerOk q []).settle := by
  simp only [runDropHeadRequest, headOf_byteOf]
  exact if_neg (not_not_intro inRun)

end

/-! ## Records taken in STREAMING -/

/-- A record of the run counted and forwarded to the group (R97, R98). -/
def counted (r : FeedRecord) (s : State) : State :=
  { s with run := { s.run with recordCount := s.run.recordCount + 1 }
           wire := s.sending [] fun h => onlyIf (s.inGroup h) (.feed r) }

theorem forward_counted (r : FeedRecord) (s : State) :
    (s.onRun fun c => { c with recordCount := c.recordCount + 1 }).forward r = s.counted r :=
  forHeads_sendHead _ s.run.group fun _ => .feed r

section
variable (s : State)

theorem takeRecord_block (payload : List Byte) : s.takeRecord (.block payload) = s.counted (.block payload) := by
  simp only [takeRecord, forward_counted]

theorem takeRecord_gateOpen (limit : Half) :
    s.takeRecord (.gateOpen limit) = (s.counted (.gateOpen limit)).openGate limit := by
  simp only [takeRecord, forward_counted]

theorem takeRecord_gateClose : s.takeRecord .gateClose = (s.counted .gateClose).closeGate := by
  simp only [takeRecord, forward_counted]

theorem takeRecord_endRecord : s.takeRecord .endRecord = (s.counted .endRecord).beginDraining := by
  simp only [takeRecord, forward_counted]

/-- The entry set of a level that a GATE_OPEN pushes (R113). -/
theorem newLevel_entry (limit : Half) (h : HeadId) (i : SiteId) :
    ((s.newLevel limit).entry[h]).getLsbD i.val = true ↔ s.inGroup h = true ∧ (s.site h i).state = .testing := by
  have entry : (s.newLevel limit).entry[h] = if s.inGroup h then s.testing h else 0 := ofFn_get _ h
  rw [entry]
  split
  · rename_i member
    rw [testing, siteSet, getLsbD_setOfFin, beq_iff_eq]
    exact (and_iff_right member).symm
  · rename_i out
    exact iff_of_false (by simp) fun both => out both.1

theorem newLevel_parked (limit : Half) (h : HeadId) : (s.newLevel limit).parked[h] = 0 := by simp [newLevel]

variable {s}

theorem openGate_pushes (limit : Half) (room : s.gates.levels.length < 4) :
    s.openGate limit = { s with gates := { s.gates with levels := s.newLevel limit :: s.gates.levels } } := if_pos room

theorem openGate_overflows (limit : Half) (full : 4 ≤ s.gates.levels.length) :
    s.openGate limit = s.raiseException (.plain .gateOverflow) := if_neg (Nat.not_lt.mpr full)

/-- A phantom level closes with UNPARK of its depth and an empty set (R116). -/
theorem closeGate_phantom (phantom : 0 < s.gates.phantom) : s.closeGate = { s with
    gates := { s.gates with phantom := s.gates.phantom - 1 }
    wire := s.sending [.decideExit] fun h => onlyIf (s.inGroup h) (.unpark (4 + s.gates.phantom) 0) } := by
  have wire : ((s.forHeads s.run.group fun h => sendHead h (.unpark (4 + s.gates.phantom) 0)).sendSource
      .decideExit).wire =
      s.sending [.decideExit] fun h => onlyIf (s.inGroup h) (.unpark (4 + s.gates.phantom) 0) := by
    rw [sendSource_sending, forHeads_sendHead]
    refine (sending_sending s [] [.decideExit] (fun h => onlyIf (s.inGroup h) (.unpark (4 + s.gates.phantom) 0))
      (fun _ => []) _ ?_ ?_).trans ?_
    · exact fun _ => rfl
    · exact rfl
    · simp only [List.append_nil, List.nil_append]
  rw [closeGate, if_pos phantom, ← wire]
  simp only [closePhantom, forHeads_sendHead]
  rfl

theorem closeGate_decides (real : s.gates.phantom = 0) (levels : s.gates.levels ≠ []) :
    s.closeGate = s.beginDecision := by
  rw [closeGate, if_neg real.not_gt]
  split
  · contradiction
  · rfl

theorem closeGate_underflows (real : s.gates.phantom = 0) (levels : s.gates.levels = []) :
    s.closeGate = s.raiseException (.plain .gateUnderflow) := by
  rw [closeGate, if_neg real.not_gt, levels]

end

/-- A feed record that is taken in STREAMING (R94). -/
theorem streams_record {s : State} (free : s.run.resetPending = none) (streaming : s.run.state = .streaming)
    (r : FeedRecord) : s.sourceMessage (some (.record r)) = s.takeRecord r := by
  rw [sourceMessage_record free]
  simp only [arriveRecord, streaming]

end State

/-! ## The obligations -/

/-- Settles O30: records by the state of the run, and the bytes that make no message. -/
theorem theFeedOutsideStreaming : Obligations.TheFeedOutsideStreaming := by
  refine ⟨fun s c r carries => ?_, fun s c finish ill => ?_⟩
  · have run : exec c s = .next (s.sourceMessage (some (.record r))).emit := by
      rcases carries with ⟨b, rfl, rfl, one, most⟩ | ⟨l, rfl, rfl, some_⟩ | ⟨rfl, rfl⟩ | ⟨rfl, rfl⟩
      · exact exec_block s one most
      · exact exec_gateOpen s some_
      · rfl
      · rfl
    rw [run]
    refine ⟨fun pending => ?_, fun free => ?_⟩
    · rw [sourceMessage_pending pending (by simp)]
    · rw [sourceMessage_record free]
      refine ⟨fun idle => ?_, fun off => ?_, fun held room => ?_, fun held full => ?_, fun halting => ?_⟩
      · simp only [arriveRecord, idle]
        rfl
      · rcases off with off | off | off <;> simp only [arriveRecord, off]
      · rw [arriveRecord_held r held, holdRecord, if_pos (show s.run.buffer.length < Config.bufferSize from room)]
        rfl
      · rw [arriveRecord_held r held, holdRecord,
          if_neg (show ¬ s.run.buffer.length < Config.bufferSize from Nat.not_lt.mpr full)]
      · simp only [arriveRecord, halting]
  · have run : exec c s = .next (finish (s.sourceMessage none)) := by
      rcases ill with ⟨bytes, rfl, rfl, bad⟩ | ⟨payload, rfl, rfl, misfit⟩ | ⟨rfl, rfl⟩
      · show Host.Outcome.next (s.sourceMessage (sourceInput bytes)).settle = _
        rw [sourceInput_none bad]
      · exact exec_block_illFormed s misfit
      · rfl
    rw [run]
    refine ⟨fun pending => ?_, fun free => ?_⟩
    · rw [sourceMessage_pending pending (by simp)]
    · rw [sourceMessage_illFormed free]
      refine ⟨fun idle => ?_, fun halting => ?_, fun running going => ?_⟩
      · simp only [illFormed, idle]
        rfl
      · simp only [illFormed, halting]
      · rw [illFormed_running running going]

/-- Settles O31: each record counted and forwarded, and then what its kind does. -/
theorem recordsTakenInStreaming : Obligations.RecordsTakenInStreaming := by
  refine ⟨fun s free streaming => ⟨fun payload one most => ?_, ?_⟩, fun s limit free streaming some_ => ?_,
    fun s free streaming => ?_⟩
  · rw [exec_block s one most, streams_record free streaming, takeRecord_block]
    rfl
  · show Host.Outcome.next (s.sourceMessage (some (.record .endRecord))).emit = _
    rw [streams_record free streaming, takeRecord_endRecord]
    rfl
  · have run := exec_gateOpen s some_
    rw [streams_record free streaming, takeRecord_gateOpen] at run
    refine ⟨fun room => ⟨(s.counted (.gateOpen limit)).newLevel limit, rfl, rfl, newLevel_entry _ limit,
      newLevel_parked _ limit, ?_⟩, fun full => ?_⟩
    · rw [run, openGate_pushes (s := s.counted _) limit room]
      rfl
    · rw [run, openGate_overflows (s := s.counted _) limit full]
      rfl
  · have run : exec .gateClose s = .next (s.counted .gateClose).closeGate.emit := by
      show Host.Outcome.next (s.sourceMessage (some (.record .gateClose))).emit = _
      rw [streams_record free streaming, takeRecord_gateClose]
    rw [run]
    refine ⟨fun phantom => ?_, fun real levels => ?_, fun real levels => ?_⟩
    · have wire : (s.counted .gateClose).sending [.decideExit]
          (fun h => onlyIf (s.inGroup h) (.unpark (4 + s.gates.phantom) 0)) = s.sending [.decideExit] fun h =>
            if s.inGroup h then [.feed .gateClose, .unpark (4 + s.gates.phantom) 0] else [] := by
        refine (sending_sending s [] _ (fun h => onlyIf (s.inGroup h) (.feed .gateClose)) _ (s.counted .gateClose)
          (fun _ => rfl) rfl).trans ?_
        congr 1
        funext h
        unfold onlyIf
        split <;> rfl
      rw [closeGate_phantom (s := s.counted .gateClose) phantom, ← wire]
      rfl
    · rw [closeGate_decides (s := s.counted .gateClose) real levels]
      rfl
    · rw [closeGate_underflows (s := s.counted .gateClose) real levels]
      rfl

/-- Settles O32: the abort and the faults that begin it, and the two requests that change the run by themselves. -/
theorem abortsDropsAndMasksByRequest : Obligations.AbortsDropsAndMasksByRequest := by
  refine ⟨⟨fun tag q p s owner => ?_, fun s f running going => ?_⟩, fun tag h q p s owner => ?_,
    fun tag masks q p s owner => ?_⟩
  · have run := owner.runs runAbortRequest rfl rfl
    refine ⟨fun idle => ?_, fun halting => ?_, fun running going => ?_⟩
    · rw [run, runAbortRequest, if_pos idle, refuse_emit]
    · rw [run, runAbortRequest, if_neg (by simp [halting]), abortRun, if_pos (.inr halting), answerOk_emit]
    · rw [run, runAbortRequest, if_neg running, abortRun_eq (s := { s with port := p }) running going]
      rfl
  · rw [feedFault_eq running going]
    cases f <;> rfl
  · have run := owner.runs (runDropHeadRequest · (byteOf h.val)) rfl rfl
    refine ⟨fun apart => ?_, fun inRun => ⟨_, rfl, ?_⟩⟩
    · rw [run, runDropHeadRequest_wrongState q { s with port := p } apart, refuse_emit]
    · rw [run, runDropHeadRequest_drops q { s with port := p } inRun]
      rfl
  · have run := owner.runs (runSetMaskRequest · masks) rfl rfl
    refine ⟨fun above => ?_, fun named idle => ?_, fun named running => ?_⟩
    · have none_ : maskSetOf masks = none := Option.not_isSome_iff_eq_none.mp fun x => by
        have := maskSetOf_isSome.mp x
        omega
      rw [run, runSetMaskRequest, none_]
      rfl
    · obtain ⟨m, made⟩ := Option.isSome_iff_exists.mp (maskSetOf_isSome.mpr named)
      rw [run, runSetMaskRequest, made]
      exact congrArg _ (if_pos idle)
    · have made : maskSetOf masks = some (masks.setWidth 7) := by
        rw [maskSetOf, if_neg (by rw [Bool.not_eq_true, byte_msb_clear]; exact named)]
        rfl
      rw [run, runSetMaskRequest, made]
      exact congrArg _ (if_neg running)

/-- Settles O38: FEED_RESET waits for RESET_DONE or its expiry. -/
theorem feedResetAndItsEnds : Obligations.FeedResetAndItsEnds := by
  refine ⟨fun tag q p s owner => ?_, fun s tag => ⟨fun pending => ⟨?_, fun running => ?_⟩, fun none_ => ⟨?_, ?_⟩⟩⟩
  · have run := owner.runs feedResetRequest rfl rfl
    refine ⟨fun bars => ?_, fun idle free => ?_⟩
    · rw [run, feedResetRequest, if_pos bars, refuse_emit]
    · rw [run, feedResetRequest, if_neg (by simp [idle, free]), sendSource_sending, owner.request rfl]
      rfl
  · show Host.Outcome.next (s.sourceMessage (some .resetDone)).settle = _
    simp only [sourceMessage, pending]
    rfl
  · show Host.Outcome.next s.resetExpiry = _
    simp only [resetExpiry, pending, running]
    rfl
  · show Host.Outcome.next (s.sourceMessage (some .resetDone)).settle = _
    rw [sourceMessage_resetDone none_]
  · show Host.Outcome.next s.resetExpiry = _
    simp only [resetExpiry, none_]

end Sys2Proof.Machine
end

section
/-!
The tallies with their timeouts, and RESUME with its replay (R99, R100, R105, R118 to R120, R137 to R139).
-/

namespace Sys2Proof.Machine

open State

namespace State

/-! ## Pass tallies -/

section
variable {s : State} {h : HeadId} {depth pass : Half}

theorem tallyTaken_iff : s.tallyTaken = true ↔
    s.run.state = .deciding ∨ (s.run.state = .held ∧ s.run.returnState = some .deciding) := by
  simp [tallyTaken]

/-- The four checks of a pass tally (R118). -/
theorem tallyMatches_iff : s.tallyMatches h depth pass = true ↔
    s.inGroup h = true ∧ depth.toNat = s.gates.levels.length ∧
      (∃ top below, s.gates.levels = top :: below ∧ pass.toNat = top.passCount + 1) ∧ s.gates.collected[h] = none := by
  unfold tallyMatches inGroup
  cases s.gates.levels with
  | nil => simp
  | cons top below => simp [and_assoc]

/-- A tally that is checked and matches is recorded, and the decision is made when it was the last (R118, R120). -/
theorem passTallyFrame_recorded (taken : s.tallyTaken = true) (matches_ : s.tallyMatches h depth pass = true)
    (matched : SiteSet) {t : State}
    (recorded : t = s.onGates fun g => { g with collected := upd g.collected h fun _ => some matched }) :
    s.passTallyFrame h depth pass matched =
      (if t.run.state = .deciding ∧ t.allCollected then t.makeDecision else t).emit := by
  subst recorded
  exact if_pos (Bool.and_eq_true_iff.mpr ⟨taken, matches_⟩)

theorem passTallyFrame_discarded (out : ¬ s.tallyTaken = true ∨ ¬ s.tallyMatches h depth pass = true)
    (matched : SiteSet) : s.passTallyFrame h depth pass matched = s :=
  if_neg fun both => (Bool.and_eq_true_iff.mp both).elim fun taken matches_ => out.elim (· taken) (· matches_)

end

/-- In HELD, or with a tally still missing, what a tally state awaits is not complete. -/
theorem not_complete_of_waits {state awaited : RunState} {complete : Bool} (apart : awaited ≠ .held)
    (waits : state = .held ∨ complete = false) : ¬ (state = awaited ∧ complete = true) := by
  rintro ⟨rfl, done⟩
  rcases waits with held | open_
  · exact apart held
  · exact absurd (done.symm.trans open_) (by decide)

/-! ## End tallies -/

section
variable {s : State} {h : HeadId}

theorem endTallyTaken_iff : s.endTallyTaken = true ↔
    s.run.state = .draining ∨ (s.run.state = .held ∧ s.run.returnState = some .draining) := by
  simp [endTallyTaken]

theorem endTallyFrame_iff : (s.endTallyTaken && s.run.group.getLsbD h.val) = true ↔
    (s.run.state = .draining ∨ (s.run.state = .held ∧ s.run.returnState = some .draining)) ∧ s.inGroup h = true := by
  rw [Bool.and_eq_true_iff, endTallyTaken_iff, inGroup]

/-- An end tally is added, and the run ends normally when it was the last (R99, R100). -/
theorem endTallyFrame_added (taken : (s.endTallyTaken && s.run.group.getLsbD h.val) = true) {t : State}
    (added : t = s.onRun fun r => { r with tallied := r.tallied ||| (1#4 <<< h.val) }) :
    s.endTallyFrame h = (if t.run.state = .draining ∧ t.allTallied then t.normalEnd else t).settle := by
  subst added
  exact if_pos taken

end

/-! ## The tally timeout -/

section
variable {s : State}

theorem missingHeads_deciding (deciding : s.run.state = .deciding) {missing : HeadSet}
    (untallied : ∀ h : HeadId, missing.getLsbD h.val = (s.inGroup h && (s.gates.collected[h]).isNone)) :
    s.missingHeads = missing := by
  refine BitVec.eq_of_getLsbD_eq fun k below => ?_
  have collected : s.collectedSet.getLsbD k = (s.gates.collected[k]).isSome := getLsbD_setOfFin _ (⟨k, below⟩ : HeadId)
  simp only [missingHeads, deciding]
  rw [untallied ⟨k, below⟩, BitVec.getLsbD_and, BitVec.getLsbD_not, collected, decide_eq_true below, Bool.true_and,
    Option.not_isSome]
  rfl

theorem missingHeads_draining (draining : s.run.state = .draining) :
    s.missingHeads = s.run.group &&& ~~~s.run.tallied := by
  simp only [missingHeads, draining]

/-- The expiry raises TALLY_LATE with the missing heads, the timer stopped (R119, R99). -/
theorem tallyExpiry_late {x : RunState} {missing : HeadSet} (state : s.run.state = x) (timer : s.run.timer.isSome = true)
    (some_ : missing ≠ 0) (late : s.missingHeads = missing) : s.tallyExpiry x =
      (({ s with run := { s.run with timer := none } } : State).raiseException
        ⟨.tallyLate, none, none, none, none, none, some missing⟩).settle := by
  subst late
  exact if_pos ⟨by simp [timerRunsIn, state, timer], some_⟩

/-- With no timer running in the state, the expiry changes nothing. -/
theorem tallyExpiry_stopped {x : RunState} (stopped : s.run.state ≠ x ∨ s.run.timer = none) : s.tallyExpiry x = s :=
  if_neg fun runs => by
    have both := runs.1
    simp only [timerRunsIn, Bool.and_eq_true, beq_iff_eq] at both
    rcases stopped with other | none_
    · exact other both.1
    · simp [none_] at both

end

/-! ## What RESUME completes -/

section
variable {s : State}

theorem completeWait_decides (deciding : s.run.state = .deciding) (complete : s.allCollected = true) :
    s.completeWait = s.makeDecision := by
  simp only [completeWait, deciding, complete, if_true]

theorem completeWait_ends (draining : s.run.state = .draining) (complete : s.allTallied = true) :
    s.completeWait = s.normalEnd := by
  simp only [completeWait, draining, complete, if_true]

/-- A wait that is not complete begins its timeout anew (R138). -/
theorem completeWait_waits (waits : s.run.state = .deciding ∧ s.allCollected = false ∨
      s.run.state = .draining ∧ s.allTallied = false) :
    s.completeWait = { s with run := { s.run with timer := some s.port.config.tallyTimeout.toNat } } := by
  have again {x : RunState} (state : s.run.state = x) : s.startTally x =
      { s with run := { s.run with timer := some s.port.config.tallyTimeout.toNat } } := by
    subst state
    rfl
  rcases waits with ⟨state, open_⟩ | ⟨state, open_⟩
  all_goals
    rw [← again state]
    simp only [completeWait, state, open_]
    rfl

theorem completeWait_passes (apart : s.run.state ≠ .deciding) (away : s.run.state ≠ .draining) :
    s.completeWait = s := by
  unfold completeWait
  split
  · contradiction
  · contradiction
  · rfl

/-! ## The replay -/

theorem replays_iff : s.replays = true ↔ s.run.state ≠ .held ∧ s.run.state ≠ .halting ∧ s.run.state ≠ .none := by
  simp [replays, and_assoc]

theorem replays_false_iff :
    s.replays = false ↔ s.run.state = .held ∨ s.run.state = .halting ∨ s.run.state = .none := by
  rw [← Bool.not_eq_true, replays_iff]
  tauto

/-- CONTINUE goes to a paused source when the buffer is empty (R139). -/
theorem continueSource_continues (empty : s.run.buffer = []) (paused : s.run.paused = true) (goes : s.replays = true) :
    s.continueSource = { s with run := { s.run with paused := false }, wire := s.sending [.continue] fun _ => [] } := by
  rw [continueSource, if_pos (by simp [empty, paused, goes]), sendSource_sending]
  rfl

theorem continueSource_rests (rests : s.run.buffer ≠ [] ∨ s.run.paused = false ∨ s.replays = false) :
    s.continueSource = s := if_neg fun all => by
  simp only [Bool.and_eq_true, List.isEmpty_iff] at all
  rcases rests with left | unpaused | stopped
  · exact left all.1.2
  · exact absurd (all.2.symm.trans unpaused) (by decide)
  · exact absurd (all.1.1.symm.trans stopped) (by decide)

theorem replay_stopped (stopped : s.replays = false) (records : List FeedRecord) : replay records s = s := by
  cases records with
  | nil => rfl
  | cons r rest => rw [replay, if_neg (Bool.eq_false_iff.mp stopped)]

theorem replay_goes (goes : s.replays = true) (r : FeedRecord) (rest : List FeedRecord) : replay (r :: rest) s =
    replay rest (({ s with run := { s.run with buffer := rest } } : State).arriveRecord r) := by
  rw [replay, if_pos goes]
  rfl

/-- A record that the run does not await ends the replay with FEED_FORMAT (R94, R139). -/
theorem replay_faults (off : s.run.state = .starting ∨ s.run.state = .deciding ∨ s.run.state = .draining)
    (r : FeedRecord) (rest : List FeedRecord) : replay (r :: rest) s =
      ({ s with run := { s.run with buffer := rest } } : State).feedFault .feedFormat := by
  have going : s.run.state ≠ .held ∧ s.run.state ≠ .halting ∧ s.run.state ≠ .none := by
    rcases off with e | e | e <;> simp [e]
  have arrives : ({ s with run := { s.run with buffer := rest } } : State).arriveRecord r =
      ({ s with run := { s.run with buffer := rest } } : State).feedFault .feedFormat := by
    unfold arriveRecord
    rcases off with e | e | e <;> simp only [e]
  rw [replay_goes (replays_iff.mpr going), arrives]
  refine replay_stopped ?_ rest
  rw [feedFault_eq (s := { s with run := { s.run with buffer := rest } }) going.2.2 going.2.1]
  rfl

end

/-! ## The buffer during a replay -/

/-- A raise other than TALLY_LATE leaves the buffer (R105, R132). -/
theorem raiseException_buffer {r : Raise} (apart : r.cause ≠ .tallyLate) (s : State) :
    (s.raiseException r).run.buffer = s.run.buffer := by
  have default (t : State) : (t.applyDefault r).run = t.run := applyDefault_flat apart t .run (by decide)
  unfold raiseException
  split
  · rfl
  · rfl
  · rw [default]
    rfl
  · rw [default]
    rfl
  · split
    · rw [default]
      rfl
    · rw [holdRun_run]
      rfl

/-- A record taken in STREAMING leaves the buffer. -/
theorem takeRecord_buffer (r : FeedRecord) (s : State) : (s.takeRecord r).run.buffer = s.run.buffer := by
  cases r with
  | block payload => rw [takeRecord_block]; rfl
  | gateOpen limit =>
    rw [takeRecord_gateOpen, openGate]
    split
    · rfl
    · exact raiseException_buffer (by simp [Raise.plain]) _
  | gateClose =>
    rw [takeRecord_gateClose]
    rcases Nat.eq_zero_or_pos (s.counted .gateClose).gates.phantom with real | phantom
    · by_cases levels : (s.counted .gateClose).gates.levels = []
      · rw [closeGate_underflows real levels]
        exact raiseException_buffer (by simp [Raise.plain]) _
      · rw [closeGate_decides real levels]
        rfl
    · rw [closeGate_phantom phantom]
      rfl
  | endRecord => rw [takeRecord_endRecord]; rfl

/-- A fault empties the buffer or leaves it (R101). -/
theorem feedFault_buffer (f : RunFault) (s : State) : (s.feedFault f).run.buffer.length ≤ s.run.buffer.length := by
  unfold feedFault abortRun
  split
  · exact Nat.le_refl _
  · exact Nat.zero_le _

/-- Outside HELD no record joins the buffer (R104). -/
theorem arriveRecord_buffer (r : FeedRecord) {s : State} (apart : s.run.state ≠ .held) :
    (s.arriveRecord r).run.buffer.length ≤ s.run.buffer.length := by
  unfold arriveRecord
  split
  · exact Nat.le_refl _
  · exact feedFault_buffer _ s
  · rw [takeRecord_buffer]
  · exact feedFault_buffer _ s
  · exact feedFault_buffer _ s
  · contradiction
  · exact Nat.le_refl _

/-- The replay leaves at most the records that it has not taken (R105). -/
theorem replay_buffer (records : List FeedRecord) {s : State} (held : s.run.buffer.length ≤ records.length) :
    (replay records s).run.buffer.length ≤ records.length := by
  induction records generalizing s with
  | nil => exact held
  | cons r rest ih =>
    cases goes : s.replays with
    | false => rwa [replay_stopped goes]
    | true =>
      rw [replay_goes goes]
      have arrived := arriveRecord_buffer r (s := { s with run := { s.run with buffer := rest } }) (replays_iff.mp goes).1
      exact (ih arrived).trans (Nat.le_succ _)

/-! ## The owner of RESUME -/

theorem resumeRequest_refused (q : Request) {s : State} (apart : s.run.state ≠ .held) :
    s.resumeRequest q = (s.refuse q .wrongState).emit := by
  unfold resumeRequest
  split
  · contradiction
  · rfl

theorem resumeRequest_resumes (q : Request) {s : State} {hold : HoldRecord} {ret : RunState}
    (held : s.run.state = .held) (record : s.run.hold = some hold) (returns : s.run.returnState = some ret) :
    s.resumeRequest q = ((s.resumeRun hold ret).answerOk q []).settle := by
  simp only [resumeRequest, held, record, returns]

end State

/-! ## The obligations -/

/-- Settles O39: which tallies are taken and what the last of them does, and the expiry of their timeout. -/
theorem talliesAndTheirTimeouts : Obligations.TalliesAndTheirTimeouts := by
  refine ⟨fun s h depth pass matched link mark => ?_, fun s h link mark => ?_, fun s missing => ⟨?_, ?_, ?_, ?_⟩⟩
  · have run : exec (.passTally h depth pass matched) s = .next (s.passTallyFrame h depth pass matched) :=
      congrArg Host.Outcome.next (if_pos (decodes_iff.mpr ⟨link, mark⟩))
    simp only [run]
    refine ⟨fun taken matches_ deciding complete => ?_, fun taken matches_ waits => ?_, fun out => ?_⟩
    · exact congrArg Host.Outcome.next ((passTallyFrame_recorded (tallyTaken_iff.mpr taken)
        (tallyMatches_iff.mpr matches_) matched rfl).trans (congrArg State.emit (if_pos ⟨deciding, complete⟩)))
    · exact congrArg Host.Outcome.next ((passTallyFrame_recorded (tallyTaken_iff.mpr taken)
        (tallyMatches_iff.mpr matches_) matched rfl).trans
          (congrArg State.emit (if_neg (not_complete_of_waits (by decide) waits))))
    · rw [passTallyFrame_discarded (by rwa [tallyTaken_iff, tallyMatches_iff])]
  · have run : exec (.endTally h) s = .next (s.endTallyFrame h) :=
      congrArg Host.Outcome.next (if_pos (decodes_iff.mpr ⟨link, mark⟩))
    simp only [run]
    refine ⟨fun taken draining complete => ?_, fun taken waits => ?_, fun out => ?_⟩
    · exact congrArg Host.Outcome.next ((endTallyFrame_added (endTallyFrame_iff.mpr taken) rfl).trans
        (congrArg State.settle (if_pos ⟨draining, complete⟩)))
    · exact congrArg Host.Outcome.next ((endTallyFrame_added (endTallyFrame_iff.mpr taken) rfl).trans
        (congrArg State.settle (if_neg (not_complete_of_waits (by decide) waits))))
    · exact congrArg Host.Outcome.next (if_neg fun taken => out (endTallyFrame_iff.mp taken))
  · exact fun deciding timer some_ untallied => congrArg Host.Outcome.next
      (tallyExpiry_late deciding timer some_ (missingHeads_deciding deciding untallied))
  · exact fun draining timer some_ untallied => congrArg Host.Outcome.next
      (tallyExpiry_late draining timer some_ ((missingHeads_draining draining).trans untallied.symm))
  · exact fun stopped => congrArg Host.Outcome.next (tallyExpiry_stopped stopped)
  · exact fun stopped => congrArg Host.Outcome.next (tallyExpiry_stopped stopped)

/-- Settles O37: the four steps of RESUME one after the other, and the replay record by record. -/
theorem resumeAndItsReplay : Obligations.ResumeAndItsReplay := by
  refine ⟨fun tag q p s owner => ?_, fun s => rfl, fun s r rest => ⟨fun stopped => ?_, fun streaming => ?_, fun off => ?_⟩,
    fun s => replay_buffer _ (Nat.le_refl _)⟩
  · have run := owner.runs resumeRequest rfl rfl
    refine ⟨fun apart => ?_, fun hold ret held record returns => ?_⟩
    · rw [run, resumeRequest_refused q (s := { s with port := p }) apart, refuse_emit]
    · obtain ⟨a, defaulted⟩ : ∃ a, a = (endHold ret { s with port := p }).applyDefault hold.raised := ⟨_, rfl⟩
      refine ⟨a, a.completeWait, replay a.completeWait.run.buffer a.completeWait, a.completeWait.replayBuffer, defaulted,
        completeWait_decides, completeWait_ends, completeWait_waits, completeWait_passes, rfl,
        fun empty paused apart going running => ?_, fun rests => ?_, ?_⟩
      · exact continueSource_continues empty paused (replays_iff.mpr ⟨apart, going, running⟩)
      · exact continueSource_rests (by rwa [replays_false_iff])
      · rw [run, resumeRequest_resumes q (s := { s with port := p }) held record returns, resumeRun, ← defaulted]
        rfl
  · exact replay_stopped (replays_false_iff.mpr stopped) _
  · rw [replay_goes (replays_iff.mpr (by simp [streaming]))]
    simp only [arriveRecord, streaming]
  · exact replay_faults off r rest

end Sys2Proof.Machine
end

section
/-!
The START line: what the filter makes of a change and of the expiry of its candidate, and what a START edge does by head
state (R85, R154 to R156).
-/

namespace Sys2Proof.Machine

open State

namespace State

/-! ## The filter -/

section
variable {h : HeadId} {level : LineLevel} {s : State}

/-- A level recognised without a START edge (R155). -/
theorem recognise_other (other : edgeTo level ≠ (s.head h).polarity) :
    s.recognise h level = s.onHead h fun c => { c with recognised := level, candidate := none } :=
  if_neg fun both => other both.2

/-- A START edge: the level is recognised and the edge acts (R155, R156). -/
theorem recognise_edge (moves : (s.head h).recognised ≠ level) (edge : edgeTo level = (s.head h).polarity) :
    s.recognise h level = (s.onHead h fun c => { c with recognised := level, candidate := none }).startEdge h :=
  if_pos ⟨moves, edge⟩

theorem filterChange_returns (same : (s.head h).recognised = level) :
    s.filterChange h level = s.onHead h fun c => { c with candidate := none } := if_pos same.symm

variable (moves : (s.head h).recognised ≠ level)
include moves

theorem filterChange_off (off : (s.head h).width = .off) : s.filterChange h level = s.recognise h level :=
  (if_neg (Ne.symm moves)).trans (if_pos off)

variable (on : (s.head h).width ≠ .off)
include on

theorem filterChange_standby (standby : (s.head h).state = .standby) : s.filterChange h level = s :=
  (if_neg (Ne.symm moves)).trans ((if_neg on).trans (if_pos standby))

theorem filterChange_begins (awake : (s.head h).state ≠ .standby) : s.filterChange h level =
    s.onHead h fun c => { c with candidate := some ⟨level, c.width⟩ } :=
  (if_neg (Ne.symm moves)).trans ((if_neg on).trans ((if_neg awake).trans (onHead_congr h s rfl)))

end

section
variable {h : HeadId} {level : LineLevel} {s : State}

theorem exec_startLine_moves (moves : s.lines[h].start ≠ level) : exec (.startLineChange h level) s =
    .next ((s.onLines h fun l => { l with start := level }).filterChange h level).settle :=
  congrArg Host.Outcome.next (if_neg moves)

theorem exec_candidateExpiry {w : RejectWidth} (candidate : (s.head h).candidate = some ⟨level, w⟩) :
    exec (.startCandidateExpiry h) s = .next (s.recognise h level).settle := by
  show Host.Outcome.next (s.candidateExpiry h) = _
  simp only [candidateExpiry, candidate]

end

/-! ## The edge -/

section
variable {h : HeadId} {s : State}

theorem startEdge_seen (idles : (s.head h).state = .offline ∨
      ((s.head h).state = .standby ∧ (s.head h).wakeOnStart = false) ∨
      ((s.head h).state = .idle ∧ (s.head h).autoQueue = false)) :
    s.startEdge h = s.raiseFlag h HeadFlag.startSeen := by
  rcases idles with state | ⟨state, off⟩ | ⟨state, off⟩
  · simp only [startEdge, state]
  · simp only [startEdge, state, off]
    rfl
  · simp only [startEdge, state, off]
    rfl

theorem startEdge_wakes (state : (s.head h).state = .standby) (on : (s.head h).wakeOnStart = true) :
    s.startEdge h = (s.raiseFlag h HeadFlag.startSeen).edgeWake h := by
  simp only [startEdge, state, on, if_true]

theorem startEdge_joins (state : (s.head h).state = .idle) (on : (s.head h).autoQueue = true) :
    s.startEdge h = (s.raiseFlag h HeadFlag.startSeen).joinDefault h := by
  simp only [startEdge, state, on, if_true]

theorem startEdge_early (busy : (s.head h).state = .waking ∨ (s.head h).state = .queued ∨ (s.head h).state = .inRun ∨
      (s.head h).state = .analysis ∨ (s.head h).state = .binWait) :
    s.startEdge h = (s.raiseFlag h HeadFlag.startSeen).raiseFlag h HeadFlag.startEarly := by
  rcases busy with state | state | state | state | state <;> simp only [startEdge, state]

/-- A wake without a candidate: leaving STANDBY, the filter compares the line with the recognised level (R154, R155). -/
theorem startWake_compares (origin : ServiceOrigin) (mark : Bool) (none_ : (s.head h).candidate = none) :
    s.startWake h origin mark = (s.issueService h (.headWake mark) origin).onHead h fun c =>
      { c with state := .waking,
               candidate := if s.lines[h].start = (s.head h).recognised then none else some ⟨s.lines[h].start, c.width⟩ } := by
  have lines : ((s.issueService h (.headWake mark) origin).setHeadState h .waking).lines = s.lines :=
    issueService_same h (.headWake mark) origin s .lines (by decide)
  rw [startWake, resumeFilter, lines, setHeadState, onHead_onHead]
  refine onHead_congr h _ ?_
  rw [issueService_own]
  by_cases same : s.lines[h].start = (s.head h).recognised
  · rw [if_neg (fun both => both.1 same.symm), if_pos same, none_]
  · rw [if_pos ⟨Ne.symm same, none_⟩, if_neg same]

theorem edgeWake_free (free : (s.head h).slot = none) :
    s.edgeWake h = s.startWake h .internal (s.head h).autoQueue := by
  simp only [edgeWake, free]

/-- With the slot busy the wake is kept pending (R154). -/
theorem edgeWake_pends (busy : (s.head h).slot.isSome = true) : s.edgeWake h = s.onHead h fun c =>
    { c with pendingWake := some ((s.head h).pendingWake == some true || (s.head h).autoQueue) } := by
  obtain ⟨sv, slot⟩ := Option.isSome_iff_exists.mp busy
  simp only [edgeWake, slot]
  refine onHead_congr h s ?_
  cases (s.head h).pendingWake with
  | none => rfl
  | some mark => cases mark <;> rfl

theorem joinDefault_stays (empty : (s.head h).defaultSlot = none ∨
    ∃ i, (s.head h).defaultSlot = some i ∧ s.planAt i = none) : s.joinDefault h = s := by
  rcases empty with none_ | ⟨i, slot, unloaded⟩
  · simp only [joinDefault, none_]
  · simp only [joinDefault, slot]
    exact join_empty unloaded

theorem joinDefault_joins {i : SlotId} {plan : Plan} (slot : (s.head h).defaultSlot = some i)
    (loaded : s.planAt i = some plan) : s.joinDefault h = { s.setHeadState h .queued with
      arbiter := { s.arbiter with queue := s.arbiter.queue ++
        [⟨h, i, plan.planClass, s.store.classMap[plan.planClass]⟩] }
      store := { s.store with slots := upd s.store.slots i fun x => { x with useCount := x.useCount + 1 } } } := by
  simp only [joinDefault, slot]
  exact join_loaded loaded

end

/-! ## A START edge of the filter -/

/-- The level recognised, and head event flags set. -/
def seen (h : HeadId) (level : LineLevel) (flag : BitVec 10) (s : State) : State := s.onHead h fun c =>
  { c with recognised := level, candidate := none, flags := c.flags ||| flag, raised := c.raised ||| flag }

section
variable {h : HeadId} {level : LineLevel} {s : State}

theorem seen_head (flag : BitVec 10) : (s.seen h level flag).head h = { s.head h with
    recognised := level, candidate := none, flags := (s.head h).flags ||| flag, raised := (s.head h).raised ||| flag } :=
  onHead_own ..

theorem raiseFlag_seen (flag : BitVec 10) :
    (s.onHead h fun c => { c with recognised := level, candidate := none }).raiseFlag h flag = s.seen h level flag :=
  onHead_onHead ..

theorem seen_raiseFlag (flag also : BitVec 10) :
    (s.seen h level flag).raiseFlag h also = s.seen h level (flag ||| also) := by
  rw [raiseFlag, seen, onHead_onHead]
  refine onHead_congr h s ?_
  simp only [HeadContext.raiseFlag, BitVec.or_assoc]

variable (moves : (s.head h).recognised ≠ level) (edge : edgeTo level = (s.head h).polarity)
include moves edge

/-- OFFLINE, or with W off in STANDBY or Q off in IDLE, the edge is seen and nothing more (R156). -/
theorem recognise_seen (idles : (s.head h).state = .offline ∨
      ((s.head h).state = .standby ∧ (s.head h).wakeOnStart = false) ∨
      ((s.head h).state = .idle ∧ (s.head h).autoQueue = false)) :
    s.recognise h level = s.seen h level HeadFlag.startSeen := by
  rw [recognise_edge moves edge, startEdge_seen (by rwa [onHead_own]), raiseFlag_seen]

section
variable (state : (s.head h).state = .standby) (on : (s.head h).wakeOnStart = true)
include state on

theorem recognise_wakes (free : (s.head h).slot = none) : s.recognise h level =
    ((s.seen h level HeadFlag.startSeen).issueService h (.headWake (s.head h).autoQueue) .internal).onHead h fun c =>
      { c with state := .waking,
               candidate := if s.lines[h].start = level then none else some ⟨s.lines[h].start, c.width⟩ } := by
  rw [recognise_edge moves edge, startEdge_wakes (by rwa [onHead_own]) (by rwa [onHead_own]), raiseFlag_seen,
    edgeWake_free (by rwa [seen_head]), startWake_compares _ _ (by rw [seen_head]), seen_head]
  rfl

theorem recognise_pends (busy : (s.head h).slot.isSome = true) : s.recognise h level =
    (s.seen h level HeadFlag.startSeen).onHead h fun d =>
      { d with pendingWake := some ((s.head h).pendingWake == some true || (s.head h).autoQueue) } := by
  rw [recognise_edge moves edge, startEdge_wakes (by rwa [onHead_own]) (by rwa [onHead_own]), raiseFlag_seen,
    edgeWake_pends (by rwa [seen_head]), seen_head]

end

section
variable (state : (s.head h).state = .idle)
include state

/-- IDLE, the edge is only seen without Q or a LOADED default slot (R85). -/
theorem recognise_stays (bars : (s.head h).autoQueue = false ∨ (s.head h).defaultSlot = none ∨
      ∃ i, (s.head h).defaultSlot = some i ∧ s.planAt i = none) :
    s.recognise h level = s.seen h level HeadFlag.startSeen := by
  cases queues : (s.head h).autoQueue with
  | false => exact recognise_seen moves edge (.inr (.inr ⟨state, queues⟩))
  | true =>
    have empty := bars.resolve_left (by simp [queues])
    rw [recognise_edge moves edge, startEdge_joins (by rwa [onHead_own]) (by rwa [onHead_own]), raiseFlag_seen]
    exact joinDefault_stays (by rwa [seen_head])

theorem recognise_joins (on : (s.head h).autoQueue = true) {i : SlotId} {plan : Plan}
    (slot : (s.head h).defaultSlot = some i) (loaded : s.planAt i = some plan) : s.recognise h level =
    { (s.seen h level HeadFlag.startSeen).setHeadState h .queued with
      arbiter := { s.arbiter with queue := s.arbiter.queue ++
        [⟨h, i, plan.planClass, s.store.classMap[plan.planClass]⟩] }
      store := { s.store with slots := upd s.store.slots i fun x => { x with useCount := x.useCount + 1 } } } := by
  rw [recognise_edge moves edge, startEdge_joins (by rwa [onHead_own]) (by rwa [onHead_own]), raiseFlag_seen]
  exact joinDefault_joins (s := s.seen h level HeadFlag.startSeen) (by rwa [seen_head]) loaded

end

/-- In every other state the edge is early (R156). -/
theorem recognise_early (busy : (s.head h).state = .waking ∨ (s.head h).state = .queued ∨ (s.head h).state = .inRun ∨
      (s.head h).state = .analysis ∨ (s.head h).state = .binWait) :
    s.recognise h level = s.seen h level (HeadFlag.startSeen ||| HeadFlag.startEarly) := by
  rw [recognise_edge moves edge, startEdge_early (by rwa [onHead_own]), raiseFlag_seen, seen_raiseFlag]

end

end State

/-! ## The obligation -/

/-- Settles O25: the cases of the filter, and a START edge by head state for a level recognised at once or by its
candidate. -/
theorem theStartLineIsFilteredAndTaken : Obligations.TheStartLineIsFilteredAndTaken := by
  refine ⟨fun h level s => ⟨fun same => ?_, fun start => ⟨fun same => ?_, fun moves off other => ?_,
    fun moves on awake => ?_, fun moves on standby => ?_⟩, fun w candidate other => ?_, fun none_ => ?_⟩,
    fun h level s => ?_⟩
  · exact congrArg Host.Outcome.next (if_pos same)
  · rw [exec_startLine_moves start, filterChange_returns (s := s.onLines h _) same]
  · rw [exec_startLine_moves start, filterChange_off (s := s.onLines h _) moves off,
      recognise_other (s := s.onLines h _) other]
  · rw [exec_startLine_moves start, filterChange_begins (s := s.onLines h _) moves on awake]
  · rw [exec_startLine_moves start, filterChange_standby (s := s.onLines h _) moves on standby]
  · rw [exec_candidateExpiry candidate, recognise_other other]
  · show Host.Outcome.next (s.candidateExpiry h) = _
    simp only [candidateExpiry, none_]
  · intro c seen outcome moves edge
    have recognised (start : s.lines[h].start ≠ level) (off : c.width = .off) : exec (.startLineChange h level) s =
        .next ((s.onLines h fun l => { l with start := level }).recognise h level).settle := by
      rw [exec_startLine_moves start, filterChange_off (s := s.onLines h _) moves off]
    refine ⟨fun start off => ⟨_, recognised start off, ?_⟩, fun w candidate => ⟨_, exec_candidateExpiry candidate, ?_⟩⟩
    all_goals
      refine ⟨fun off => recognise_seen moves edge (.inl off),
        fun standby off => recognise_seen moves edge (.inr (.inl ⟨standby, off⟩)),
        fun standby on free => recognise_wakes moves edge standby on free,
        fun standby on busy => recognise_pends moves edge standby on busy,
        fun idle bars => recognise_stays moves edge idle bars,
        fun i plan idle on slot loaded => ?_, fun busy => recognise_early moves edge busy⟩
    · exact recognise_joins (s := s.onLines h _) moves edge idle on slot loaded
    · exact recognise_joins moves edge idle on slot loaded

end Sys2Proof.Machine
end

section
/-!
The requests that issue a service: SUPPLY_SET, HEAD_ACCESS, HEAD_STANDBY and HEAD_WAKE, with their checks in order
(R149 to R151, R153, R154).
-/

namespace Sys2Proof.Machine

open State

namespace State

/-! ## What issuing a service makes -/

section
variable (h : HeadId) (origin : ServiceOrigin) (s : State)

/-- What the comparison of the line makes of the candidate (R155). -/
theorem resumeFilter_eq : s.resumeFilter h = s.onHead h fun c =>
    { c with candidate := if c.recognised ≠ s.lines[h].start ∧ c.candidate = none
               then some ⟨s.lines[h].start, c.width⟩ else c.candidate } :=
  onHead_congr h s (by split <;> rfl)

/-- What the stop of the filter's clock makes of the candidate (R155). -/
theorem pauseFilter_eq : s.pauseFilter h = s.onHead h fun c =>
    { c with candidate := if c.state = .standby ∧ c.width ≠ .off then none else c.candidate } :=
  onHead_congr h s (by split <;> rfl)

/-- Issuing a service as a frame sent and one update of the head (R149). -/
theorem issueService_onHead (op : ServiceOp) : s.issueService h op origin =
    { s with wire := s.sending [] fun k => onlyIf (k == h) (.service ((s.head h).serviceNumber + 1) op) }.onHead h
      fun c => { c with serviceNumber := c.serviceNumber + 1,
                        slot := some ⟨op, origin, c.serviceNumber + 1, op.timeout⟩ } :=
  issueService_eq h op origin s

/-- The supply is RAMPING or FALLING with the service that is to bring it to rest (R151). -/
theorem startSupply_onHead (on : Bool) : s.startSupply h on origin =
    { s with wire := s.sending [] fun k => onlyIf (k == h) (.service ((s.head h).serviceNumber + 1)
        (if on then .supplyOn else .supplyOff)) }.onHead h fun c =>
      { c with supply := if on then .ramping else .falling, serviceNumber := c.serviceNumber + 1,
               slot := some ⟨if on then .supplyOn else .supplyOff, origin, c.serviceNumber + 1, 20000⟩ } := by
  rw [startSupply, setSupply, issueService_onHead, onHead_onHead]
  cases on <;> rfl

/-- A wake, and the start filter's comparison of the line as the head leaves STANDBY (R154, R155). -/
theorem startWake_onHead (mark : Bool) : s.startWake h origin mark =
    { s with wire := s.sending [] fun k =>
        onlyIf (k == h) (.service ((s.head h).serviceNumber + 1) (.headWake mark)) }.onHead h fun c =>
      { c with state := .waking, serviceNumber := c.serviceNumber + 1,
               slot := some ⟨.headWake mark, origin, c.serviceNumber + 1, 500⟩,
               candidate := if c.recognised ≠ s.lines[h].start ∧ c.candidate = none
                 then some ⟨s.lines[h].start, c.width⟩ else c.candidate } := by
  rw [startWake, resumeFilter_eq, setHeadState, onHead_onHead, issueService_onHead, onHead_onHead]
  rfl

end

theorem not_busy_of_free {h : HeadId} {s : State} (free : (s.head h).slot = none) :
    ¬ (s.head h).slot.isSome = true := by
  simp [free]

/-! ## SUPPLY_SET -/

section
variable (q : Request) (s : State)

theorem supplySetRequest_refused {head setting : Byte} (out : 3 < head.toNat ∨ 1 < setting.toNat) :
    s.supplySetRequest q head setting = (s.refuse q .badValue).emit := by
  unfold supplySetRequest
  rcases out with above | above
  · rw [headOf_above above]
  · rw [onOff_above above]
    cases headOf head <;> rfl

variable (h : HeadId) (on : Bool)

theorem supplyBarred_iff : s.supplyBarred h on = true ↔
    (s.head h).link ≠ .locked ∨ (s.head h).state = .offline ∨
    (s.head h).state = .standby ∨ (s.head h).state = .waking ∨ (on = false ∧ (s.head h).state = .inRun) := by
  simp [supplyBarred, or_assoc]

/-- The checks in the order of R151. -/
theorem supplySetRequest_eq : s.supplySetRequest q (byteOf h.val) (boolByte on) =
    if s.supplyBarred h on then (s.refuse q .wrongState).emit
    else if on ∧ (s.head h).supply = .fault then (s.refuse q .wrongState).emit
    else if (s.head h).slot.isSome then (s.refuse q .slotBusy).emit
    else if (s.head h).supply = supplyTarget on then (s.answerOk q [(s.head h).supply.code]).emit
    else (s.startSupply h on (.host q.tag)).emit := by
  simp only [supplySetRequest, headOf_byteOf, onOff_boolByte]

theorem supplySetRequest_barred (barred : s.supplyBarred h on = true) :
    s.supplySetRequest q (byteOf h.val) (boolByte on) = (s.refuse q .wrongState).emit :=
  (supplySetRequest_eq q s h on).trans (if_pos barred)

variable (open_ : ¬ s.supplyBarred h on = true)
include open_

theorem supplySetRequest_faulty (fault : on = true ∧ (s.head h).supply = .fault) :
    s.supplySetRequest q (byteOf h.val) (boolByte on) = (s.refuse q .wrongState).emit :=
  (supplySetRequest_eq q s h on).trans ((if_neg open_).trans (if_pos fault))

variable (sound : ¬ (on = true ∧ (s.head h).supply = .fault))
include sound

theorem supplySetRequest_busy (busy : (s.head h).slot.isSome = true) :
    s.supplySetRequest q (byteOf h.val) (boolByte on) = (s.refuse q .slotBusy).emit :=
  (supplySetRequest_eq q s h on).trans ((if_neg open_).trans ((if_neg sound).trans (if_pos busy)))

variable (free : (s.head h).slot = none)
include free

theorem supplySetRequest_rests (there : (s.head h).supply = if on then .on else .off) :
    s.supplySetRequest q (byteOf h.val) (boolByte on) = (s.answerOk q [(s.head h).supply.code]).emit :=
  (supplySetRequest_eq q s h on).trans
    ((if_neg open_).trans ((if_neg sound).trans ((if_neg (not_busy_of_free free)).trans (if_pos there))))

theorem supplySetRequest_issues (apart : (s.head h).supply ≠ if on then .on else .off) :
    s.supplySetRequest q (byteOf h.val) (boolByte on) = (s.startSupply h on (.host q.tag)).emit :=
  (supplySetRequest_eq q s h on).trans
    ((if_neg open_).trans ((if_neg sound).trans ((if_neg (not_busy_of_free free)).trans (if_neg apart))))

end

/-! ## HEAD_ACCESS -/

section
variable (q : Request) {direction : Byte} (register : Byte) (value : Half) (s : State)

theorem headAccessRequest_refused {head : Byte} (out : 3 < head.toNat ∨ 1 < direction.toNat) :
    s.headAccessRequest q head direction register value = (s.refuse q .badValue).emit := by
  unfold headAccessRequest
  rcases out with above | above
  · rw [headOf_above above]
  · rw [onOff_above above]
    cases headOf head <;> rfl

variable (h : HeadId) (write : Bool)

/-- The checks in the order of R150. -/
theorem headAccessRequest_eq : s.headAccessRequest q (byteOf h.val) (boolByte write) register value =
    if (s.head h).link ≠ .locked then (s.refuse q .wrongState).emit
    else if (s.head h).slot.isSome then (s.refuse q .slotBusy).emit
    else (s.issueService h (if write then .headWrite register value else .headRead register) (.host q.tag)).emit := by
  simp only [headAccessRequest, headOf_byteOf, onOff_boolByte]

theorem headAccessRequest_wrongState (apart : (s.head h).link ≠ .locked) :
    s.headAccessRequest q (byteOf h.val) (boolByte write) register value = (s.refuse q .wrongState).emit :=
  (headAccessRequest_eq q register value s h write).trans (if_pos apart)

variable (locked : (s.head h).link = .locked)
include locked

theorem headAccessRequest_busy (busy : (s.head h).slot.isSome = true) :
    s.headAccessRequest q (byteOf h.val) (boolByte write) register value = (s.refuse q .slotBusy).emit :=
  (headAccessRequest_eq q register value s h write).trans ((if_neg (not_not_intro locked)).trans (if_pos busy))

theorem headAccessRequest_issues (free : (s.head h).slot = none) :
    s.headAccessRequest q (byteOf h.val) (boolByte write) register value =
      (s.issueService h (if write then .headWrite register value else .headRead register) (.host q.tag)).emit :=
  (headAccessRequest_eq q register value s h write).trans
    ((if_neg (not_not_intro locked)).trans (if_neg (not_busy_of_free free)))

end

/-! ## HEAD_STANDBY and HEAD_WAKE -/

section
variable (q : Request) (s : State) (h : HeadId)

/-- The checks in the order of R153. -/
theorem headStandbyRequest_eq : s.headStandbyRequest q (byteOf h.val) =
    if (s.head h).state ≠ .idle ∨ (s.head h).supply ≠ .off then (s.refuse q .wrongState).emit
    else if (s.head h).wakeOnStart ∧ (s.head h).width ≠ .off then (s.refuse q .conflict).emit
    else if (s.head h).slot.isSome then (s.refuse q .slotBusy).emit
    else (s.issueService h .headSleep (.host q.tag)).emit := by
  simp only [headStandbyRequest, headOf_byteOf]

theorem headStandbyRequest_wrongState (apart : (s.head h).state ≠ .idle ∨ (s.head h).supply ≠ .off) :
    s.headStandbyRequest q (byteOf h.val) = (s.refuse q .wrongState).emit :=
  (headStandbyRequest_eq q s h).trans (if_pos apart)

section
variable (idle : (s.head h).state = .idle) (off : (s.head h).supply = .off)
include idle off

theorem headStandbyRequest_conflict (wakes : (s.head h).wakeOnStart = true ∧ (s.head h).width ≠ .off) :
    s.headStandbyRequest q (byteOf h.val) = (s.refuse q .conflict).emit :=
  (headStandbyRequest_eq q s h).trans
    ((if_neg (not_or.mpr ⟨not_not_intro idle, not_not_intro off⟩)).trans (if_pos wakes))

variable (passes : ¬ ((s.head h).wakeOnStart = true ∧ (s.head h).width ≠ .off))
include passes

theorem headStandbyRequest_busy (busy : (s.head h).slot.isSome = true) :
    s.headStandbyRequest q (byteOf h.val) = (s.refuse q .slotBusy).emit :=
  (headStandbyRequest_eq q s h).trans
    ((if_neg (not_or.mpr ⟨not_not_intro idle, not_not_intro off⟩)).trans ((if_neg passes).trans (if_pos busy)))

theorem headStandbyRequest_issues (free : (s.head h).slot = none) :
    s.headStandbyRequest q (byteOf h.val) = (s.issueService h .headSleep (.host q.tag)).emit :=
  (headStandbyRequest_eq q s h).trans ((if_neg (not_or.mpr ⟨not_not_intro idle, not_not_intro off⟩)).trans
    ((if_neg passes).trans (if_neg (not_busy_of_free free))))

end

/-- The checks in the order of R154. -/
theorem headWakeRequest_eq : s.headWakeRequest q (byteOf h.val) =
    if (s.head h).state ≠ .standby then (s.refuse q .wrongState).emit
    else if (s.head h).slot.isSome then (s.refuse q .slotBusy).emit
    else (s.startWake h (.host q.tag) false).emit := by
  simp only [headWakeRequest, headOf_byteOf]

theorem headWakeRequest_wrongState (apart : (s.head h).state ≠ .standby) :
    s.headWakeRequest q (byteOf h.val) = (s.refuse q .wrongState).emit :=
  (headWakeRequest_eq q s h).trans (if_pos apart)

variable (standby : (s.head h).state = .standby)
include standby

theorem headWakeRequest_busy (busy : (s.head h).slot.isSome = true) :
    s.headWakeRequest q (byteOf h.val) = (s.refuse q .slotBusy).emit :=
  (headWakeRequest_eq q s h).trans ((if_neg (not_not_intro standby)).trans (if_pos busy))

theorem headWakeRequest_issues (free : (s.head h).slot = none) :
    s.headWakeRequest q (byteOf h.val) = (s.startWake h (.host q.tag) false).emit :=
  (headWakeRequest_eq q s h).trans ((if_neg (not_not_intro standby)).trans (if_neg (not_busy_of_free free)))

end

end State

/-! ## The obligations -/

/-- Settles O21: each check is a branch of the owner, and the service issued is that of `startSupply_onHead`. -/
theorem supplySetIsCheckedInOrder : Obligations.SupplySetIsCheckedInOrder := by
  refine ⟨fun tag head setting q p s owner out => ?_, fun tag h on q p s owner => ?_⟩
  · rw [owner.runs (supplySetRequest · head setting) rfl rfl, supplySetRequest_refused q _ out]
    rfl
  · have run := owner.runs (supplySetRequest · (byteOf h.val) (boolByte on)) rfl rfl
    obtain rfl := owner.request rfl
    have barred := supplyBarred_iff { s with port := p } h on
    refine ⟨fun bars => run.trans (congrArg _ ?_), fun open_ turn fault => run.trans (congrArg _ ?_),
      fun open_ sound busy => run.trans (congrArg _ ?_), fun open_ sound free there => run.trans (congrArg _ ?_),
      fun open_ sound free apart => run.trans (congrArg _ ?_)⟩
    · exact supplySetRequest_barred _ _ h on (barred.mpr bars)
    · exact supplySetRequest_faulty _ _ h on (mt barred.mp open_) ⟨turn, fault⟩
    · exact supplySetRequest_busy _ _ h on (mt barred.mp open_) sound busy
    · exact supplySetRequest_rests _ _ h on (mt barred.mp open_) sound free there
    · exact (supplySetRequest_issues _ { s with port := p } h on (mt barred.mp open_) sound free apart).trans
        (congrArg emit (startSupply_onHead ..))

/-- Settles O22: the checks of each request in order, and the service it issues. -/
theorem headAccessStandbyAndWakeIssueServices : Obligations.HeadAccessStandbyAndWakeIssueServices := by
  refine ⟨⟨fun tag head direction register value q p s owner out => ?_,
    fun tag h write register value q p s owner => ?_⟩, fun tag h q p s owner => ?_, fun tag h q p s owner => ?_⟩
  · rw [owner.runs (headAccessRequest · head direction register value) rfl rfl, headAccessRequest_refused q _ _ _ out]
    rfl
  · have run := owner.runs (headAccessRequest · (byteOf h.val) (boolByte write) register value) rfl rfl
    obtain rfl := owner.request rfl
    refine ⟨fun apart => run.trans (congrArg _ ?_), fun locked busy => run.trans (congrArg _ ?_),
      fun locked free => run.trans (congrArg _ ?_)⟩
    · exact headAccessRequest_wrongState _ _ _ _ h write apart
    · exact headAccessRequest_busy _ _ _ _ h write locked busy
    · refine (headAccessRequest_issues _ _ _ { s with port := p } h write locked free).trans
        ((congrArg emit (issueService_eq ..)).trans ?_)
      cases write <;> rfl
  · have run := owner.runs (headStandbyRequest · (byteOf h.val)) rfl rfl
    obtain rfl := owner.request rfl
    have passes (unfiltered : (s.head h).wakeOnStart = false ∨ (s.head h).width = .off) :
        ¬ ((s.head h).wakeOnStart = true ∧ (s.head h).width ≠ .off) := fun ⟨wakes, filtered⟩ =>
      unfiltered.elim (fun off => absurd (wakes.symm.trans off) (by decide)) filtered
    refine ⟨fun apart => run.trans (congrArg _ ?_), fun idle off wakes filtered => run.trans (congrArg _ ?_),
      fun idle off unfiltered busy => run.trans (congrArg _ ?_),
      fun idle off unfiltered free => run.trans (congrArg _ ?_)⟩
    · exact headStandbyRequest_wrongState _ _ h apart
    · exact headStandbyRequest_conflict _ _ h idle off ⟨wakes, filtered⟩
    · exact headStandbyRequest_busy _ _ h idle off (passes unfiltered) busy
    · exact (headStandbyRequest_issues _ { s with port := p } h idle off (passes unfiltered) free).trans
        (congrArg emit (issueService_eq ..))
  · have run := owner.runs (headWakeRequest · (byteOf h.val)) rfl rfl
    obtain rfl := owner.request rfl
    refine ⟨fun apart => run.trans (congrArg _ ?_), fun standby busy => run.trans (congrArg _ ?_),
      fun standby free => run.trans (congrArg _ ?_)⟩
    · exact headWakeRequest_wrongState _ _ h apart
    · exact headWakeRequest_busy _ _ h standby busy
    · exact (headWakeRequest_issues _ { s with port := p } h standby free).trans (congrArg emit (startWake_onHead ..))

end Sys2Proof.Machine
end

section
/-!
The port's own settings and events: the transmitter's alternation, the Notice Queue and the HEAD_EVENT notices of a step
(R158, R177, R178), CONFIGURE and EVENTS_READ (R180, R181).
-/

namespace Sys2Proof.Machine

open State

/-! ## The transmitter -/

namespace ControlPort

section
variable {p : ControlPort}

theorem transmit_busy {x : Sending} (sending : p.sending = some x) : p.transmit = p := by
  simp only [transmit, sending]

section
variable (free : p.sending = none)
include free

theorem transmit_begins {f : HostFrame} (next : p.nextFrame = some f) :
    p.transmit = { p with sending := some ⟨f, true⟩ } := by
  simp only [transmit, free, next, Option.map_some]

theorem transmit_rests (next : p.nextFrame = none) : p.transmit = p := by
  simp only [transmit, free, next, Option.map_none]
  exact congrArg (fun x => { p with sending := x }) free.symm

end

theorem nextFrame_none (replies : p.replies = []) (notices : p.notices = []) : p.nextFrame = none := by
  simp only [nextFrame, replies, notices]

theorem nextFrame_reply {r : Reply} {rs : List Reply} (replies : p.replies = r :: rs)
    (turn : p.notices = [] ∨ p.lastSent = some .notice) : p.nextFrame = some (.reply r) := by
  rcases turn with none_ | last
  · simp only [nextFrame, replies, none_]
  · cases waiting : p.notices with
    | nil => simp only [nextFrame, replies, waiting]
    | cons n ns => simp only [nextFrame, replies, waiting, last]

theorem nextFrame_notice {n : QueuedNotice} {ns : List QueuedNotice} (notices : p.notices = n :: ns)
    (turn : p.replies = [] ∨ p.lastSent = some .reply) : p.nextFrame = some (.notice n) := by
  rcases turn with none_ | last
  · simp only [nextFrame, notices, none_]
  · cases waiting : p.replies with
    | nil => simp only [nextFrame, notices, waiting]
    | cons r rs => simp only [nextFrame, notices, waiting, last]

/-- Before any frame was sent the choice is the free value (log 6). -/
theorem nextFrame_either {r : Reply} {rs : List Reply} {n : QueuedNotice} {ns : List QueuedNotice}
    (replies : p.replies = r :: rs) (notices : p.notices = n :: ns) (first : p.lastSent = none) :
    p.nextFrame = some (.reply r) ∨ p.nextFrame = some (.notice n) := by
  simp only [nextFrame, replies, notices, first]
  exact (ite_eq_or_eq ..)

end

/-! ## The Notice Queue -/

/-- A notice joins the Notice Queue, or is lost (R178). -/
def noticed (n : Notice) (p : ControlPort) : ControlPort :=
  if p.notices.length < Config.noticeLimit then
    { p with notices := p.notices ++ [⟨p.overrunPending, n⟩], overrunPending := false }
  else { p.setFlag PartFlag.noticeOverrun with overrunPending := true }

end ControlPort

namespace State

theorem queueNotice_eq (n : Notice) (s : State) : s.queueNotice n = s.onPort (ControlPort.noticed n) := rfl

theorem foldl_queueNotice {α : Type} (notice : α → Notice) (l : List α) (s : State) :
    l.foldl (fun t x => t.queueNotice (notice x)) s =
      s.onPort fun p => l.foldl (fun p x => p.noticed (notice x)) p := by
  induction l generalizing s with
  | nil => rfl
  | cons x rest ih => exact ih _

/-! ## The HEAD_EVENT notices of a step -/

/-- The flags that the step set and whose notice is enabled (R158). -/
def shown (s : State) (h : HeadId) : BitVec 10 := (s.head h).raised &&& (s.head h).notices

/-- The HEAD_EVENT notice of a head (R158). -/
def eventOf (s : State) (h : HeadId) : Notice := .headEvent h (s.shown h) (s.head h).state

theorem flushHead_port (h : HeadId) (s : State) :
    (s.flushHead h).port = if s.shown h != 0 then s.port.noticed (s.eventOf h) else s.port := by
  unfold flushHead
  by_cases none_ : s.shown h = 0
  · exact (congrArg port (if_pos none_)).trans (if_neg (by simp [none_])).symm
  · exact (congrArg port (if_neg none_)).trans (if_pos (bne_iff_ne.mpr none_)).symm

/-- The notices of some heads, each flushed once, are those of the heads as they stand before. -/
theorem foldl_flushHead_port {l : List HeadId} (once : l.Nodup) {s t : State} (same : ∀ h ∈ l, t.head h = s.head h) :
    (l.foldl (fun u h => u.flushHead h) t).port =
      (l.filter fun h => s.shown h != 0).foldl (fun p h => p.noticed (s.eventOf h)) t.port := by
  induction l generalizing t with
  | nil => rfl
  | cons h rest ih =>
    obtain ⟨apart, once⟩ := List.nodup_cons.mp once
    have own := same h List.mem_cons_self
    have port : (t.flushHead h).port = if s.shown h != 0 then t.port.noticed (s.eventOf h) else t.port := by
      rw [flushHead_port, shown, eventOf, shown, own]
      rfl
    refine (ih once fun k mem => ?_).trans ?_
    · rw [flushHead_head, if_neg fun (e : k = h) => apart (e ▸ mem)]
      exact same k (List.mem_cons_of_mem _ mem)
    · rw [port, List.filter_cons]
      split <;> rfl

theorem flushEvents_eq (s : State) : s.flushEvents =
    { (allHeads.filter fun h => s.shown h != 0).foldl (fun t h => t.queueNotice (s.eventOf h)) s with
      heads := Vector.ofFn fun h => { s.heads[h] with raised := 0 } } := by
  have same := flushEvents_same s
  have heads : s.flushEvents.heads = Vector.ofFn fun h => { s.heads[h] with raised := 0 } :=
    vector_ext fun h => by rw [ofFn_get]; exact flushEvents_head h s
  have port := foldl_flushHead_port (l := allHeads) (by decide) (s := s) (t := s) fun _ _ => rfl
  rw [foldl_queueNotice]
  refine ext_blocks fun b => ?_
  have agree := same b
  cases b with
  | port => exact port
  | heads => exact heads
  | _ => exact agree (by decide)

/-- The grant and the engine leave the port (R66, R88). -/
theorem settle_port (s : State) : s.settle.port = s.report.port := by
  have grant : s.flushEvents.grantCheck.port = s.flushEvents.port := grantCheck_same _ .port (by decide)
  have engine : s.flushEvents.grantCheck.startEngine.port = s.flushEvents.grantCheck.port :=
    startEngine_same _ .port (by decide)
  exact congrArg ControlPort.transmit (engine.trans grant)

end State

/-! ## CONFIGURE -/

theorem classMapOf_some {v : Vector Byte 8} {m : Vector (Fin 4) 8} (values : ∀ i : Fin 8, v[i].toNat = (m[i]).val) :
    classMapOf v = some m := by
  have below : ∀ i : Fin 8, v[i].toNat < 4 := fun i => (values i).trans_lt (m[i]).isLt
  rw [classMapOf, dif_pos below]
  refine congrArg some (vector_ext fun i => ?_)
  rw [ofFn_get]
  exact Fin.ext (values i)

theorem classMapOf_above {v : Vector Byte 8} (above : ∃ i : Fin 8, 3 < v[i].toNat) : classMapOf v = none := by
  obtain ⟨i, high⟩ := above
  exact dif_neg fun below => absurd (below i) (by omega)

section
variable {b : ConfigureBody}

theorem configOf_some {m : Vector (Fin 4) 8} (timeout : b.tallyTimeout ≠ 0)
    (values : ∀ i : Fin 8, b.classMap[i].toNat = (m[i]).val) (runs : b.runNotices.toNat ≤ 1)
    (analysis : b.analysisNotices.toNat ≤ 1) (watches : b.watchNotices.toNat ≤ 1) :
    State.configOf b = some (⟨b.tallyTimeout, b.runNotices == 1, b.analysisNotices == 1, b.watchNotices == 1⟩, m) := by
  simp only [State.configOf, classMapOf_some values, onOff_of_le runs, onOff_of_le analysis, onOff_of_le watches]
  exact if_neg timeout

/-- One field out of range is enough (R181). -/
theorem configOf_none (out : b.tallyTimeout = 0 ∨ (∃ i : Fin 8, 3 < b.classMap[i].toNat) ∨ 1 < b.runNotices.toNat ∨
    1 < b.analysisNotices.toNat ∨ 1 < b.watchNotices.toNat) : State.configOf b = none := by
  unfold State.configOf
  split
  · rename_i classes runs analysis watches
    rcases out with timeout | above | above | above | above
    · exact if_pos timeout
    · exact absurd (classes.symm.trans (classMapOf_above above)) (by simp)
    · exact absurd (runs.symm.trans (onOff_above above)) (by simp)
    · exact absurd (analysis.symm.trans (onOff_above above)) (by simp)
    · exact absurd (watches.symm.trans (onOff_above above)) (by simp)
  · rfl

end

/-! ## EVENTS_READ -/

/-- The flags that the clear sets name are cleared; bits that name no flag are passed over (R180, R185). -/
theorem State.clearEvents_eq (b : EventsBody) (s : State) : s.clearEvents b = { s with
    port := { s.port with flags := s.port.flags &&& ~~~(b.partClear.setWidth 4) }
    heads := Vector.ofFn fun h =>
      { s.heads[h] with flags := (s.head h).flags &&& ~~~((b.headClear[h]).setWidth 10) } } := by
  have part : b.partClear.extractLsb' 0 4 = b.partClear.setWidth 4 := (BitVec.setWidth_eq_extractLsb' (by decide)).symm
  have each (x : Half) : x.extractLsb' 0 10 = x.setWidth 10 := (BitVec.setWidth_eq_extractLsb' (by decide)).symm
  simp only [clearEvents, part, each]
  rfl

/-! ## The obligations -/

/-- Settles O10: the frame a free transmitter begins, a notice at the queue, and the notices of a step gathered from the
heads one by one. -/
theorem theTransmitterAndTheNoticeQueue : Obligations.TheTransmitterAndTheNoticeQueue := by
  refine ⟨fun p => ⟨fun x sending => p.transmit_busy sending, fun free => ⟨fun replies notices => ?_,
    fun r rs replies turn => ?_, fun n ns notices turn => ?_, fun r rs n ns replies notices first => ?_⟩⟩,
    fun n s => ⟨fun room => ?_, fun full => ?_⟩, fun s => ⟨?_, settle_port s⟩⟩
  · exact ControlPort.transmit_rests free (ControlPort.nextFrame_none replies notices)
  · exact ControlPort.transmit_begins free (ControlPort.nextFrame_reply replies turn)
  · exact ControlPort.transmit_begins free (ControlPort.nextFrame_notice notices turn)
  · exact (ControlPort.nextFrame_either replies notices first).imp (ControlPort.transmit_begins free)
      (ControlPort.transmit_begins free)
  · exact congrArg (fun p => { s with port := p }) (if_pos room)
  · exact congrArg (fun p => { s with port := p }) (if_neg (Nat.not_lt.mpr full))
  · exact congrArg emit (flushEvents_eq s)

/-- Settles O15: a CONFIGURE body is read whole or not at all, and EVENTS_READ answers the flags it then clears. -/
theorem configureAndEventsRead : Obligations.ConfigureAndEventsRead := by
  refine ⟨fun tag b q p s owner => ?_, fun tag b q p s owner => ?_⟩
  · have run := owner.runs (configureRequest · b) rfl rfl
    refine ⟨fun m timeout values runs analysis watches => ?_, fun out => ?_⟩
    · rw [run, configureRequest, configOf_some timeout values runs analysis watches]
      rfl
    · rw [run, configureRequest, configOf_none out]
      rfl
  · have run := owner.runs (eventsReadRequest · b) rfl rfl
    rw [eventsReadRequest, clearEvents_eq] at run
    exact run

end Sys2Proof.Machine
end

section
/-!
The link of a head: HEAD_LINK, alignment marks, loss of signal, the re-seek timer and LINK_SHIFT (R143 to R145), and
what the loss of a link does to its head (R146).
-/

namespace Sys2Proof.Machine

open State

namespace State

/-! ## The reply to a service that ends without its result -/

/-- The replies to the host request of a service that ends without its result (R149, log 14). -/
def cancelled (h : HeadId) (sv : Option Service) (st : Status) (s : State) : List Reply :=
  (sv.map fun v => v.owes.map fun t => (⟨v.op.kind, t, st, s.lateFields h v.op, true⟩ : Reply)).getD []

theorem answerCancelled_eq (h : HeadId) (sv : Option Service) (st : Status) (s : State) :
    s.answerCancelled h sv st = { s with port := { s.port with
      replies := s.port.replies ++ s.cancelled h sv st } } := by
  have unanswered : s = { s with port := { s.port with replies := s.port.replies ++ [] } } := by rw [List.append_nil]
  cases sv with
  | none => exact unanswered
  | some v =>
    obtain ⟨op, origin, number, timer⟩ := v
    cases origin with
    | host tag => rfl
    | internal => exact unanswered

/-! ## The head of a lost link -/

section
variable {h : HeadId} {s : State}

theorem headOffLink_stays (apart : (s.head h).state = .offline ∨ (s.head h).state = .analysis ∨
    (s.head h).state = .binWait) : s.headOffLink h = s := by
  rcases apart with state | state | state <;> simp only [headOffLink, state]

theorem headOffLink_rests (state : (s.head h).state = .idle ∨ (s.head h).state = .waking) :
    s.headOffLink h = s.setHeadState h .offline := by
  rcases state with state | state <;> simp only [headOffLink, state]

theorem headOffLink_standby (state : (s.head h).state = .standby) :
    s.headOffLink h = (s.setHeadState h .offline).resumeFilter h := by
  simp only [headOffLink, state]

theorem headOffLink_queued (state : (s.head h).state = .queued) : s.headOffLink h = s.withdraw h .offline := by
  simp only [headOffLink, state]

theorem headOffLink_inRun (state : (s.head h).state = .inRun) : s.headOffLink h = s.dropHead h .link := by
  simp only [headOffLink, state]

end

/-- The head with its supply OFF, its slot free and no wake pending (R146). -/
def unserved (h : HeadId) (s : State) : State :=
  s.onHead h fun c => { c with supply := .off, slot := none, pendingWake := none }

/-- The same, with a service of host origin answered NO_ANSWER (R146, R149). -/
def severed (h : HeadId) (s : State) : State :=
  { s.unserved h with port := { (s.unserved h).port with
    replies := (s.unserved h).port.replies ++ (s.unserved h).cancelled h (s.head h).slot .noAnswer } }

section
variable (h : HeadId) (s : State)

theorem unserved_own : (s.unserved h).head h =
    { s.head h with supply := .off, slot := none, pendingWake := none } := onHead_own ..

theorem severed_state : ((s.severed h).head h).state = (s.head h).state := by
  have own : (s.severed h).head h = (s.unserved h).head h := rfl
  rw [own, unserved_own]

theorem linkDown_eq : s.linkDown h = (s.severed h).headOffLink h := by
  have unserves : (s.setSupply h .off).clearSlot h = s.unserved h := onHead_onHead ..
  rw [linkDown, unserves, answerCancelled_eq, severed]

end

/-! ## A link that changes -/

section
variable (h : HeadId) (s : State)

theorem setLink_eq (x : LinkState) : s.setLink h x = s.onHead h fun c =>
    { c with link := x, flags := c.flags ||| HeadFlag.linkChange, raised := c.raised ||| HeadFlag.linkChange } :=
  onHead_onHead ..

theorem loseLink_eq : s.loseLink h = (s.onHead h fun c =>
    { c with link := .lost, reseek := true, flags := c.flags ||| HeadFlag.linkChange,
             raised := c.raised ||| HeadFlag.linkChange }).linkDown h := by
  rw [loseLink, setLink_eq, onHead_onHead]

/-- The link locks, and an OFFLINE head becomes IDLE (R144, R147). -/
theorem lockLink_eq : s.lockLink h = s.onHead h fun c =>
    { c with link := .locked, missRun := 0, flags := c.flags ||| HeadFlag.linkChange,
             raised := c.raised ||| HeadFlag.linkChange, state := if c.state = .offline then .idle else c.state } := by
  simp only [lockLink, setLink_eq, setHeadState, onHead_onHead]
  split
  · rename_i offline
    exact onHead_congr h s (by rw [if_pos offline])
  · rename_i apart
    exact onHead_congr h s (by rw [if_neg apart])

end

/-! ## HEAD_LINK -/

section
variable {h : HeadId} {s : State}

theorem enableLink_seeks (off : (s.head h).link = .off) (changed : Bool) : s.enableLink h changed = s.onHead h fun c =>
    { c with link := .seeking, aligner := 0, markRun := 0, flags := c.flags ||| HeadFlag.linkChange,
             raised := c.raised ||| HeadFlag.linkChange } := by
  simp only [enableLink, off, setLink_eq, onHead_onHead]

/-- A change of the align mode restarts the mark run (R143). -/
theorem enableLink_restarts (seeking : (s.head h).link = .seeking) (before mode : AlignMode) :
    s.enableLink h (before != mode) =
      s.onHead h fun d => { d with markRun := if before = mode then d.markRun else 0 } := by
  simp only [enableLink, seeking, bne_iff_ne]
  by_cases same : before = mode
  · exact (if_neg (not_not_intro same)).trans (onHead_self h s (by rw [if_pos same])).symm
  · exact (if_pos same).trans (onHead_congr h s (by rw [if_neg same]))

theorem enableLink_stays (held : (s.head h).link = .locked ∨ (s.head h).link = .lost) (changed : Bool) :
    s.enableLink h changed = s := by
  rcases held with link | link <;> simp only [enableLink, link]

theorem disableLink_stays (off : (s.head h).link = .off) : s.disableLink h = s := by
  simp only [disableLink, off]

theorem disableLink_drops (on : (s.head h).link ≠ .off) : s.disableLink h = (s.onHead h fun c =>
    { c with link := .off, reseek := false, flags := c.flags ||| HeadFlag.linkChange,
             raised := c.raised ||| HeadFlag.linkChange }).linkDown h := by
  unfold disableLink
  split
  · rename_i off
    exact absurd off on
  · rw [setLink_eq, onHead_onHead]

end

theorem alignModeOf_above {b : Byte} (above : 1 < b.toNat) : alignModeOf b = none := by
  have h0 : b ≠ 0#8 := by rintro rfl; simp at above
  have h1 : b ≠ 1#8 := by rintro rfl; simp at above
  rw [alignModeOf, if_neg h0, if_neg h1]

section
variable (q : Request) (s : State)

theorem headLinkRequest_refused {head on los mode : Byte}
    (out : 3 < head.toNat ∨ 1 < on.toNat ∨ 1 < los.toNat ∨ 1 < mode.toNat) :
    s.headLinkRequest q head on los mode = (s.refuse q .badValue).emit := by
  unfold headLinkRequest
  split
  · rename_i heads ons detects modes
    rcases out with above | above | above | above
    · exact absurd (heads.symm.trans (headOf_above above)) (by simp)
    · exact absurd (ons.symm.trans (onOff_above above)) (by simp)
    · exact absurd (detects.symm.trans (onOff_above above)) (by simp)
    · exact absurd (modes.symm.trans (alignModeOf_above above)) (by simp)
  · rfl

theorem headLinkRequest_eq (h : HeadId) (on los : Bool) (mode : AlignMode) :
    s.headLinkRequest q (byteOf h.val) (boolByte on) (boolByte los) mode.code =
      ((s.configureLink h on los mode).answerOk q ((s.configureLink h on los mode).linkBytes h)).settle := by
  simp only [headLinkRequest, headOf_byteOf, onOff_boolByte, alignModeOf_code]

end

/-- The settings that HEAD_LINK stores (R143). -/
def withLink (h : HeadId) (on los : Bool) (mode : AlignMode) (s : State) : State :=
  s.onHead h fun c => { c with linkEnable := on, losDetect := los, alignMode := mode }

section
variable (h : HeadId) (los : Bool) (mode : AlignMode) (s : State)

theorem withLink_link (on : Bool) : ((s.withLink h on los mode).head h).link = (s.head h).link := by
  rw [withLink, onHead_own]

theorem configureLink_on : s.configureLink h true los mode =
    (s.withLink h true los mode).enableLink h ((s.head h).alignMode != mode) := rfl

theorem configureLink_off : s.configureLink h false los mode = (s.withLink h false los mode).disableLink h := rfl

end

/-! ## Alignment marks -/

section
variable {h : HeadId} {s : State}

section
variable (seeking : (s.head h).link = .seeking)
include seeking

theorem placedMark_counts (few : (s.head h).markRun < 3) :
    s.placedMark h = s.onHead h fun c => { c with markRun := c.markRun + 1, awaitMark := false } := by
  simp only [placedMark, seeking]
  exact if_neg (by omega)

/-- The fourth placed mark locks the link (R144). -/
theorem placedMark_locks (many : 3 ≤ (s.head h).markRun) : s.placedMark h = s.onHead h fun c =>
    { c with link := .locked, markRun := c.markRun + 1, missRun := 0, awaitMark := false,
             flags := c.flags ||| HeadFlag.linkChange, raised := c.raised ||| HeadFlag.linkChange,
             state := if c.state = .offline then .idle else c.state } := by
  simp only [placedMark, seeking, lockLink_eq, onHead_onHead]
  exact if_pos (by omega)

end

theorem placedMark_clears (locked : (s.head h).link = .locked) :
    s.placedMark h = s.onHead h fun c => { c with missRun := 0, awaitMark := false } := by
  simp only [placedMark, locked]

theorem placedMark_passes (down : (s.head h).link = .off ∨ (s.head h).link = .lost) : s.placedMark h = s := by
  rcases down with link | link <;> simp only [placedMark, link]

variable {x : Fin 16} (apart : x ≠ (s.head h).aligner)
include apart

theorem misplacedMark_moves (seeking : (s.head h).link = .seeking) (mode : (s.head h).alignMode = .mark) :
    s.misplacedMark h x = s.onHead h fun c => { c with aligner := x, markRun := 1, awaitMark := false } := by
  simp only [misplacedMark, if_neg apart, seeking, mode]

theorem misplacedMark_restarts (seeking : (s.head h).link = .seeking) (mode : (s.head h).alignMode = .manual) :
    s.misplacedMark h x = s.onHead h fun c => { c with markRun := 0, awaitMark := false } := by
  simp only [misplacedMark, if_neg apart, seeking, mode]

section
variable (locked : (s.head h).link = .locked)
include locked

theorem misplacedMark_counts (few : (s.head h).missRun < 3) :
    s.misplacedMark h x = s.onHead h fun c => { c with missRun := c.missRun + 1, awaitMark := false } := by
  simp only [misplacedMark, if_neg apart, locked]
  exact if_neg (by omega)

/-- The fourth misplaced mark loses the link (R145). -/
theorem misplacedMark_loses (many : 3 ≤ (s.head h).missRun) : s.misplacedMark h x = (s.onHead h fun c =>
    { c with link := .lost, missRun := c.missRun + 1, awaitMark := false, reseek := true,
             flags := c.flags ||| HeadFlag.linkChange,
             raised := c.raised ||| HeadFlag.linkChange }).linkDown h := by
  simp only [misplacedMark, if_neg apart, locked, loseLink_eq, onHead_onHead]
  exact if_pos (by omega)

end

theorem misplacedMark_passes (down : (s.head h).link = .off ∨ (s.head h).link = .lost) : s.misplacedMark h x = s := by
  rcases down with link | link <;> simp only [misplacedMark, if_neg apart, link]

end

/-! ## Loss of signal, the re-seek timer and LINK_SHIFT -/

section
variable {h : HeadId} {s : State}

theorem lossOfSignal_restarts (seeking : (s.head h).link = .seeking) :
    s.lossOfSignal h = s.onHead h fun c => { c with markRun := 0 } := by
  simp only [lossOfSignal, seeking]

theorem lossOfSignal_loses (locked : (s.head h).link = .locked) (detects : (s.head h).losDetect = true) :
    s.lossOfSignal h = s.loseLink h := by
  simp only [lossOfSignal, locked, detects, if_true]

theorem lossOfSignal_passes (deaf : (s.head h).link = .off ∨ (s.head h).link = .lost ∨
    ((s.head h).link = .locked ∧ (s.head h).losDetect = false)) : s.lossOfSignal h = s := by
  rcases deaf with link | link | ⟨link, off⟩
  · simp only [lossOfSignal, link]
  · simp only [lossOfSignal, link]
  · simp only [lossOfSignal, link, off]
    rfl

theorem reseekExpiry_seeks (lost : (s.head h).link = .lost) (runs : (s.head h).reseek = true) :
    s.reseekExpiry h = (s.onHead h fun c =>
      { c with link := .seeking, reseek := false, markRun := 0, flags := c.flags ||| HeadFlag.linkChange,
               raised := c.raised ||| HeadFlag.linkChange }).report := by
  simp only [reseekExpiry, setLink_eq, onHead_onHead]
  exact if_pos ⟨lost, runs⟩

theorem reseekExpiry_passes (stopped : (s.head h).link ≠ .lost ∨ (s.head h).reseek = false) : s.reseekExpiry h = s :=
  if_neg fun ⟨lost, runs⟩ => stopped.elim (fun apart => apart lost) fun off => absurd (off.symm.trans runs) (by decide)

theorem linkShiftRequest_eq (q : Request) : s.linkShiftRequest q (byteOf h.val) =
    if (s.head h).link = .seeking ∧ (s.head h).alignMode = .manual then
      ((s.answerOk q [byteOf (((s.head h).aligner.val + 1) % 16)]).emit).onHead h fun c =>
        { c with aligner := c.aligner + 1, markRun := 0 }
    else (s.refuse q .wrongState).emit := by
  simp only [linkShiftRequest, headOf_byteOf, onHead_own]
  rfl

end

end State

/-! ## The obligations -/

/-- Settles O19: the owner of HEAD_LINK by enable and link state, and the head of a link that goes by its state. -/
theorem headLinkAndTheLossOfALink : Obligations.HeadLinkAndTheLossOfALink := by
  refine ⟨⟨fun tag head on los mode q p s owner out => ?_, fun tag h on los mode q p s owner => ?_⟩, fun h s => ?_⟩
  · rw [owner.runs (headLinkRequest · head on los mode) rfl rfl, headLinkRequest_refused q _ out]
    rfl
  · have run := owner.runs (headLinkRequest · (byteOf h.val) (boolByte on) (boolByte los) mode.code) rfl rfl
    rw [headLinkRequest_eq] at run
    have link := withLink_link h los mode { s with port := p } on
    refine ⟨_, run, ?_, ?_, ?_, ?_, ?_⟩
    · rintro rfl off
      exact enableLink_seeks (link.trans off) _
    · rintro rfl seeking
      exact enableLink_restarts (link.trans seeking) _ mode
    · rintro rfl held
      exact enableLink_stays (held.imp link.trans link.trans) _
    · rintro rfl off
      exact disableLink_stays (link.trans off)
    · rintro rfl on
      exact disableLink_drops fun off => on (link.symm.trans off)
  · refine ⟨(s.unserved h).cancelled h (s.head h).slot .noAnswer, ?_, ?_⟩
    · rcases (s.head h).slot with _ | ⟨op, _ | _, number, timer⟩
      · rfl
      · cases op <;> simp only [cancelled, Option.map_some, Option.getD_some, Service.owes, List.map_cons, List.map_nil,
          lateFields, unserved_own]
      · rfl
    · rw [linkDown_eq]
      have state := severed_state h s
      refine ⟨fun apart => ?_, fun rests => ?_, fun standby => ?_, fun queued e entry => ?_, fun inRun => ?_⟩
      · exact headOffLink_stays (by rwa [state])
      · exact headOffLink_rests (by rwa [state])
      · exact headOffLink_standby (by rwa [state])
      · rw [headOffLink_queued (by rwa [state]), withdraw_queued (state.trans queued) entry]
        rfl
      · exact headOffLink_inRun (by rwa [state])

/-- Settles O20: each event of a link by the link's state. -/
theorem marksSignalLossReseekAndLinkShift : Obligations.MarksSignalLossReseekAndLinkShift := by
  have mark {h : HeadId} {s t : State} (e : s.placedMark h = t) : exec (.alignMarkPlaced h) s = .next t.settle :=
    e ▸ rfl
  have away {h : HeadId} {x : Fin 16} {s t : State} (e : s.misplacedMark h x = t) :
      exec (.alignMarkMisplaced h x) s = .next t.settle := e ▸ rfl
  have loss {h : HeadId} {s t : State} (e : s.lossOfSignal h = t) : exec (.signalLoss h) s = .next t.settle := e ▸ rfl
  refine ⟨fun h s => ⟨fun seeking few => ?_, fun seeking many => ?_, fun locked => ?_, fun down => ?_,
    fun x apart => ⟨fun seeking mode => ?_, fun seeking mode => ?_, fun locked few => ?_, fun locked many => ?_,
      fun down => ?_⟩⟩,
    fun h s => ⟨fun seeking => ?_, fun locked detects => ?_, fun deaf => ?_, fun lost runs => ?_, fun stopped => ?_⟩,
    fun tag h q p s owner => ?_⟩
  · exact mark (placedMark_counts seeking few)
  · exact mark (placedMark_locks seeking many)
  · exact mark (placedMark_clears locked)
  · exact mark (placedMark_passes down)
  · exact away (misplacedMark_moves apart seeking mode)
  · exact away (misplacedMark_restarts apart seeking mode)
  · exact away (misplacedMark_counts apart locked few)
  · exact away (misplacedMark_loses apart locked many)
  · exact away (misplacedMark_passes apart down)
  · exact loss (lossOfSignal_restarts seeking)
  · exact loss ((lossOfSignal_loses locked detects).trans (loseLink_eq h s))
  · exact loss (lossOfSignal_passes deaf)
  · exact congrArg Host.Outcome.next (reseekExpiry_seeks lost runs)
  · exact congrArg Host.Outcome.next (reseekExpiry_passes stopped)
  · have run := owner.runs (linkShiftRequest · (byteOf h.val)) rfl rfl
    rw [linkShiftRequest_eq] at run
    refine ⟨fun seeking manual => run.trans (congrArg _ ?_), fun bars => run.trans (congrArg _ ?_)⟩
    · exact if_pos ⟨seeking, manual⟩
    · exact if_neg (not_and_or.mpr bars)

end Sys2Proof.Machine
end

section
/-!
The frames of a head outside a run: how a service ends with its reply or its timeout (R149 to R151, R153, R154), the
SUPPLY_TRIP (R152), and the frames that reach no block (R148, R187).
-/

namespace Sys2Proof.Machine

open State

namespace State

/-! ## A service that ends -/

/-- The Service Slot of the head is free (R149). -/
def freed (h : HeadId) (s : State) : State := s.onHead h fun c => { c with slot := none }

/-- A supply or register service has ended: the slot is free, the supply is `x`, a flag is set, and the request of a
service of host origin is answered (R149 to R151). -/
def ended (h : HeadId) (sv : Service) (x : SupplyState) (flag : BitVec 10) (st : Status) (fields : List Byte)
    (s : State) : State :=
  (s.onHead h fun c => { c with slot := none, supply := x, flags := c.flags ||| flag, raised := c.raised ||| flag
    }).answerService sv st fields

section
variable (h : HeadId) (sv : Service) (x : SupplyState) (flag : BitVec 10) (st : Status) (fields : List Byte) (s : State)

theorem freed_own : (s.freed h).head h = { s.head h with slot := none } := onHead_own ..

theorem freed_setSupply : ((s.freed h).setSupply h x).answerService sv st fields = s.ended h sv x 0 st fields := by
  rw [freed, setSupply, onHead_onHead, ended]
  simp only [BitVec.ofNat_eq_ofNat, BitVec.or_zero]

theorem freed_raiseFlag : (((s.freed h).setSupply h x).raiseFlag h flag).answerService sv st fields =
    s.ended h sv x flag st fields := by
  rw [freed, setSupply, raiseFlag, onHead_onHead, onHead_onHead, ended]
  rfl

theorem freed_answers : (s.freed h).answerService sv st fields = s.ended h sv (s.head h).supply 0 st fields := by
  rw [freed, ended]
  exact congrArg (answerService sv st fields) (onHead_congr h s (by simp only [BitVec.ofNat_eq_ofNat, BitVec.or_zero]))

theorem ended_same : SameBut [.heads, .port] s (s.ended h sv x flag st fields) :=
  (onHead_same h _ s).comp (answerService_same sv st fields _) (by decide) (by decide)

theorem ended_own : (s.ended h sv x flag st fields).head h = { s.head h with
    slot := none, supply := x, flags := (s.head h).flags ||| flag, raised := (s.head h).raised ||| flag } :=
  ((answerService_same sv st fields _).head (by decide) h).trans (onHead_own ..)

end

section
variable {h : HeadId} {s : State}

theorem withWire_onHead (w : Wire) (f : HeadContext → HeadContext) :
    ({ s.onHead h f with wire := w } : State) = { s with wire := w }.onHead h f := rfl

/-- The wake that was pending is issued with the end of a service (R149, R154). -/
theorem issuePendingWake_wakes {mark : Bool} (free : (s.head h).slot = none)
    (pending : (s.head h).pendingWake = some mark) : s.issuePendingWake h = { s with
      heads := upd s.heads h fun c =>
        { c with state := .waking, pendingWake := none, serviceNumber := c.serviceNumber + 1,
                 slot := some ⟨.headWake mark, .internal, c.serviceNumber + 1, 500⟩,
                 candidate := if c.recognised ≠ s.lines[h].start ∧ c.candidate = none
                   then some ⟨s.lines[h].start, c.width⟩ else c.candidate }
      wire := s.sending [] fun k =>
        onlyIf (k == h) (.service ((s.head h).serviceNumber + 1) (.headWake mark)) } := by
  have links := onHead_links h (f := fun c => { c with pendingWake := none }) s rfl
  simp only [issuePendingWake, free, pending]
  rw [startWake_onHead, sending_congr (s := s) (t := s.onHead h _) rfl links, onHead_own, withWire_onHead,
    onHead_onHead]
  rfl

theorem issuePendingWake_rests (none_ : (s.head h).pendingWake = none) : s.issuePendingWake h = s :=
  Law.Holds.issuePendingWake_none fun some_ => absurd some_ (by simp [none_])

end

section
variable {h : HeadId} {sv : Service} {e : ServiceEnd} {x : SupplyState} {flag : BitVec 10} {st : Status}
  {fields : List Byte} {s : State} (made : endOp h sv e (s.freed h) = s.ended h sv x flag st fields)
include made

theorem endService_ends (none_ : (s.head h).pendingWake = none) :
    s.endService h sv e = s.ended h sv x flag st fields := by
  rw [endService_eq, ← freed, made, issuePendingWake_rests (by rwa [ended_own])]

theorem endService_wakes {mark : Bool} (pending : (s.head h).pendingWake = some mark) :
    s.endService h sv e = { s.ended h sv x flag st fields with
      heads := upd (s.ended h sv x flag st fields).heads h fun c =>
        { c with state := .waking, pendingWake := none, serviceNumber := c.serviceNumber + 1,
                 slot := some ⟨.headWake mark, .internal, c.serviceNumber + 1, 500⟩,
                 candidate := if c.recognised ≠ s.lines[h].start ∧ c.candidate = none
                   then some ⟨s.lines[h].start, c.width⟩ else c.candidate }
      wire := s.sending [] fun k =>
        onlyIf (k == h) (.service ((s.head h).serviceNumber + 1) (.headWake mark)) } := by
  have own := ended_own h sv x flag st fields s
  have same := ended_same h sv x flag st fields s
  have lines : (s.ended h sv x flag st fields).lines = s.lines := same .lines (by decide)
  have links (k : HeadId) : ((s.ended h sv x flag st fields).head k).link = (s.head k).link :=
    (congrArg HeadContext.link ((answerService_same sv st fields _).head (by decide) k)).trans (onHead_links h s rfl k)
  rw [endService_eq, ← freed, made, issuePendingWake_wakes (by rw [own]) (by rwa [own]), own,
    sending_congr (same .wire (by decide)) links]
  simp only [lines]

end

/-! ## The frame and the timeout -/

section
variable {h : HeadId} {s : State}

theorem exec_serviceReply {sv : Service} (decodes : s.decodes h = true) (slot : (s.head h).slot = some sv)
    (r : ServiceResult) (value : Half) :
    exec (.serviceReply h sv.number r value) s = .next (s.endService h sv (.reply r value)).settle := by
  refine congrArg Host.Outcome.next ((if_pos decodes).trans ?_)
  simp only [serviceReplyFrame, slot, if_true]

theorem exec_serviceTimeout {sv : Service} (slot : (s.head h).slot = some sv) :
    exec (.serviceTimeout h) s = .next (s.endService h sv .timeout).settle := by
  show Host.Outcome.next (s.serviceExpiry h) = _
  simp only [serviceExpiry, slot]

/-- A reply of another number, or with the slot free, is discarded (R149). -/
theorem exec_serviceReply_discards {m : Byte} (other : ∀ sv, (s.head h).slot = some sv → sv.number ≠ m)
    (r : ServiceResult) (value : Half) : exec (.serviceReply h m r value) s = .next s := by
  have frame : s.serviceReplyFrame h m r value = s := by
    unfold serviceReplyFrame
    split
    · rename_i sv slot
      exact if_neg (other sv slot)
    · rfl
  show Host.Outcome.next (if s.decodes h then s.serviceReplyFrame h m r value else s) = _
  rw [frame, ite_self]

theorem exec_serviceTimeout_discards (free : (s.head h).slot = none) : exec (.serviceTimeout h) s = .next s := by
  show Host.Outcome.next (s.serviceExpiry h) = _
  simp only [serviceExpiry, free]

end

/-! ## The ends of HEAD_SLEEP and HEAD_WAKE -/

section
variable {h : HeadId} {sv : Service} {s : State} {r : ServiceResult}

theorem endSleep_good (good : r ≠ .refused) (value : Half) :
    s.endSleep h sv (.reply r value) = s.endSleepGood h sv := by
  cases r with
  | refused => exact absurd rfl good
  | good => rfl
  | trip => rfl

theorem endWake_good (good : r ≠ .refused) (mark : Bool) (value : Half) :
    s.endWake h sv mark (.reply r value) = s.endWakeGood h sv mark := by
  cases r with
  | refused => exact absurd rfl good
  | good => rfl
  | trip => rfl

/-- A head goes to STANDBY, and its filter's clock stops (R153, R155). -/
theorem setStandby_pauseFilter (h : HeadId) (s : State) : (s.setHeadState h .standby).pauseFilter h =
    s.onHead h fun c =>
      { c with state := .standby, candidate := if c.width ≠ .off then none else c.candidate } := by
  rw [pauseFilter_eq, setHeadState, onHead_onHead]
  simp only [true_and]

theorem endSleepGood_sleeps (idle : (s.head h).state = .idle) : s.endSleepGood h sv =
    (s.onHead h fun c => { c with
      state := .standby, candidate := if c.width ≠ .off then none else c.candidate }).answerService sv .ok [] := by
  simp only [endSleepGood, idle, setStandby_pauseFilter]

theorem endSleepGood_wakes (queued : (s.head h).state = .queued) : s.endSleepGood h sv =
    (s.issueService h (.headWake false) .internal).answerService sv .conflict [] := by
  simp only [endSleepGood, queued]

theorem endSleepGood_stays (apart : (s.head h).state ≠ .idle) (away : (s.head h).state ≠ .queued) :
    s.endSleepGood h sv = s.answerService sv .ok [] := by
  unfold endSleepGood
  split
  · rename_i queued
    exact absurd queued away
  · rename_i idle
    exact absurd idle apart
  · rfl

theorem endWakeGood_stays (apart : (s.head h).state ≠ .waking) (mark : Bool) :
    s.endWakeGood h sv mark = s.answerService sv .ok [] :=
  congrArg (answerService sv .ok []) (if_neg apart)

section
variable (waking : (s.head h).state = .waking)
include waking

/-- Without the mark, or without a LOADED default slot, the head that wakes is IDLE (R154). -/
theorem endWakeGood_rests {mark : Bool} (bars : mark = false ∨ (s.head h).defaultSlot = none ∨
      ∃ i, (s.head h).defaultSlot = some i ∧ s.planAt i = none) :
    s.endWakeGood h sv mark = (s.setHeadState h .idle).answerService sv .ok [] := by
  refine congrArg (answerService sv .ok []) ((if_pos waking).trans ?_)
  rcases bars with rfl | empty
  · rfl
  · refine (ite_eq_right_iff.mpr fun _ => joinDefault_stays ?_)
    rwa [setHeadState, onHead_own]

theorem endWakeGood_joins {i : SlotId} {plan : Plan} (slot : (s.head h).defaultSlot = some i)
    (loaded : s.planAt i = some plan) : s.endWakeGood h sv true = ({ s.setHeadState h .queued with
      arbiter := { s.arbiter with queue := s.arbiter.queue ++
        [⟨h, i, plan.planClass, s.store.classMap[plan.planClass]⟩] }
      store := { s.store with slots := upd s.store.slots i fun x => { x with useCount := x.useCount + 1 } }
      } : State).answerService sv .ok [] := by
  have default : ((s.setHeadState h .idle).head h).defaultSlot = some i := by rwa [setHeadState, onHead_own]
  have twice : (s.setHeadState h .idle).setHeadState h .queued = s.setHeadState h .queued := onHead_onHead ..
  refine congrArg (answerService sv .ok []) ((if_pos waking).trans ((joinDefault_joins default loaded).trans ?_))
  rw [twice]
  rfl

theorem endWakeBad_sleeps : s.endWakeBad h sv = (s.onHead h fun c =>
    { c with state := .standby, candidate := if c.width ≠ .off then none else c.candidate,
             flags := c.flags ||| HeadFlag.wakeFail,
             raised := c.raised ||| HeadFlag.wakeFail }).answerService sv .noAnswer [] := by
  simp only [endWakeBad, waking, if_true, setStandby_pauseFilter, raiseFlag, onHead_onHead]
  rfl

end

theorem endWakeBad_stays (apart : (s.head h).state ≠ .waking) : s.endWakeBad h sv = (s.onHead h fun c =>
    { c with flags := c.flags ||| HeadFlag.wakeFail,
             raised := c.raised ||| HeadFlag.wakeFail }).answerService sv .noAnswer [] := by
  simp only [endWakeBad, if_neg apart]
  rfl

end

/-! ## SUPPLY_TRIP -/

/-- A tripped supply: FAULT and its flag (R152). -/
def tripped (h : HeadId) (s : State) : State := s.onHead h fun c =>
  { c with supply := .fault, flags := c.flags ||| HeadFlag.supplyTrip, raised := c.raised ||| HeadFlag.supplyTrip }

section
variable {h : HeadId} {s : State}

theorem supplyTripFrame_trips (on : (s.head h).supply = .on) : s.supplyTripFrame h =
    (if (s.head h).state = .inRun then (s.tripped h).dropHead h .supply else s.tripped h).settle := by
  have trips : (s.setSupply h .fault).raiseFlag h HeadFlag.supplyTrip = s.tripped h := onHead_onHead ..
  simp only [supplyTripFrame, on, if_true, trips]

theorem supplyTripFrame_rests (off : (s.head h).supply ≠ .on) : s.supplyTripFrame h = s := if_neg off

theorem exec_supplyTrip (decodes : s.decodes h = true) : exec (.supplyTrip h) s = .next (s.supplyTripFrame h) :=
  congrArg Host.Outcome.next (if_pos decodes)

end

end State

/-! ## Frames that reach no block -/

/-- The body of a frame fits its kind (11.4). -/
def FitsKind (kind : Byte) (body : List Byte) : Prop :=
  (kind = 0x11#8 ∧ body.length = 6) ∨ (kind = 0x12#8 ∧ body.length = 8) ∨ (kind = 0x13#8 ∧ body = []) ∨
    (kind = 0x14#8 ∧ body.length = 4 ∧ ∀ r, body[1]? = some r → r.toNat ≤ 2) ∨ (kind = 0x15#8 ∧ body = [])

theorem serviceResultOf_some {b : Byte} {r : ServiceResult} (e : serviceResultOf b = some r) : b.toNat ≤ 2 := by
  unfold serviceResultOf at e
  split at e
  · simp_all
  · split at e
    · simp_all
    · split at e <;> simp_all

theorem headFields_fits {kind : Byte} {body : List Byte} {f : HeadInput} (e : headFields kind body = some f) :
    FitsKind kind body := by
  unfold headFields at e
  split at e
  · split at e
    · exact .inr (.inr (.inl ⟨‹_›, rfl⟩))
    · split at e
      · exact .inr (.inr (.inr (.inr ⟨‹_›, rfl⟩)))
      · exact absurd e (by simp)
  · rename_i n r a b
    split at e
    · obtain ⟨x, code, -⟩ := Option.map_eq_some_iff.mp e
      refine .inr (.inr (.inr (.inl ⟨‹_›, rfl, fun c own => ?_⟩)))
      obtain rfl : r = c := by simpa using own
      exact serviceResultOf_some code
    · exact absurd e (by simp)
  · split at e
    · exact .inl ⟨‹_›, rfl⟩
    · exact absurd e (by simp)
  · split at e
    · exact .inr (.inl ⟨‹_›, rfl⟩)
    · exact absurd e (by simp)
  · exact absurd e (by simp)

/-- What makes a frame of whole bytes ill-formed (R187, 11.4). -/
def IllFormed (kind hi lo check : Byte) (body : List Byte) : Prop :=
  (kind ≠ 0x11#8 ∧ kind ≠ 0x12#8 ∧ kind ≠ 0x13#8 ∧ kind ≠ 0x14#8 ∧ kind ≠ 0x15#8) ∨
    (half hi lo).toNat ≠ body.length ∨ check ≠ xorBytes (kind :: hi :: lo :: body) ∨
    (kind = 0x11#8 ∧ body.length ≠ 6) ∨ (kind = 0x12#8 ∧ body.length ≠ 8) ∨ (kind = 0x13#8 ∧ body ≠ []) ∨
    (kind = 0x14#8 ∧ body.length ≠ 4) ∨ (kind = 0x15#8 ∧ body ≠ []) ∨
    (kind = 0x14#8 ∧ ∃ r, body[1]? = some r ∧ 2 < r.toNat)

/-- A frame whose body fits its kind is ill-formed by its length or its check byte alone. -/
theorem IllFormed.of_fits {kind hi lo check : Byte} {body : List Byte} (ill : IllFormed kind hi lo check body)
    (fits : FitsKind kind body) : (half hi lo).toNat ≠ body.length ∨ check ≠ xorBytes (kind :: hi :: lo :: body) := by
  rcases fits with ⟨rfl, fit⟩ | ⟨rfl, fit⟩ | ⟨rfl, fit⟩ | ⟨rfl, fit, code⟩ | ⟨rfl, fit⟩
  · simpa [IllFormed, fit] using ill
  · simpa [IllFormed, fit] using ill
  · simpa [IllFormed, fit] using ill
  · have coded : (body[1]'(by omega)).toNat ≤ 2 := code _ (List.getElem?_eq_getElem _)
    simpa [IllFormed, fit, Nat.not_lt.mpr coded] using ill
  · simpa [IllFormed, fit] using ill

theorem headInput_none {kind hi lo check : Byte} {body : List Byte} (ill : IllFormed kind hi lo check body) :
    headInput (kind :: hi :: lo :: (body ++ [check])) = none := by
  simp only [headInput, List.dropLast_concat, List.length_append, List.length_singleton, List.getLast?_concat]
  split
  · rename_i whole
    obtain ⟨length, last⟩ := whole
    refine Option.eq_none_iff_forall_ne_some.mpr fun f e => ?_
    rcases ill.of_fits (headFields_fits e) with misfit | wrong
    · exact misfit (by omega)
    · exact wrong (Option.some.inj last)
  · rfl

theorem headInput_short {bytes : List Byte} (short : bytes.length < 3) :
    headInput bytes = none ∧ headOverlong bytes = false := by
  match bytes, short with
  | [], _ => exact ⟨rfl, rfl⟩
  | [_], _ => exact ⟨rfl, rfl⟩
  | [_, _], _ => exact ⟨rfl, rfl⟩

namespace State

section
variable {h : HeadId} {s : State} {bytes : List Byte}

/-- Bytes that make no frame reach no block; behind a length above 1027 an alignment mark is awaited (R187). -/
theorem exec_headFrameDiscard (decodes : s.decodes h = true) (none_ : headInput bytes = none) :
    exec (.headFrameDiscard h bytes) s = .next (s.awaitAfter h bytes) := by
  refine congrArg Host.Outcome.next ((if_pos decodes).trans ?_)
  rw [none_]
  rfl

theorem exec_headFrameDiscard_nothing (none_ : headInput bytes = none) (within : headOverlong bytes = false) :
    exec (.headFrameDiscard h bytes) s = .next s := by
  have frame : (s.headFrame h none).awaitAfter h bytes = s := if_neg (by simp [within])
  show Host.Outcome.next (if s.decodes h then (s.headFrame h (headInput bytes)).awaitAfter h bytes else s) = _
  rw [none_, frame, ite_self]

end

end State

/-! ## The obligations -/

/-- Settles O24: a trip by supply and head state, and what makes bytes no frame. -/
theorem supplyTripAndIllFormedHeadFrames : Obligations.SupplyTripAndIllFormedHeadFrames := by
  refine ⟨fun h s locked ready => ⟨fun on inRun => ?_, fun on apart => ?_, fun off => ?_⟩,
    fun h s => ⟨fun kind hi lo check body within ill => ?_, fun bytes short => ?_,
      fun kind hi lo above locked ready => ?_, fun closed => ?_⟩⟩
  · rw [exec_supplyTrip (decodes_iff.mpr ⟨locked, ready⟩), supplyTripFrame_trips on, if_pos inRun]
    rfl
  · rw [exec_supplyTrip (decodes_iff.mpr ⟨locked, ready⟩), supplyTripFrame_trips on, if_neg apart]
    rfl
  · rw [exec_supplyTrip (decodes_iff.mpr ⟨locked, ready⟩), supplyTripFrame_rests off]
  · exact exec_headFrameDiscard_nothing (headInput_none ill) (decide_eq_false (Nat.not_lt.mpr within))
  · exact exec_headFrameDiscard_nothing (headInput_short short).1 (headInput_short short).2
  · rw [exec_headFrameDiscard (decodes_iff.mpr ⟨locked, ready⟩) (by simp [headInput]), awaitAfter]
    exact congrArg Host.Outcome.next (if_pos (decide_eq_true above))
  · have deaf : ¬ s.decodes h = true := fun decodes =>
      have ⟨locked, ready⟩ := decodes_iff.mp decodes
      closed.elim (fun apart => apart locked) fun awaits => absurd (awaits.symm.trans ready) (by decide)
    have passes {t : State} : Host.Outcome.next (φ := Fault) (ρ := Refusal) (if s.decodes h then t else s) = .next s :=
      congrArg _ (if_neg deaf)
    exact ⟨fun _ => passes, passes, fun _ _ _ => passes, fun _ _ _ => passes, passes, fun _ _ _ _ _ => passes⟩

/-- Settles O23: `ended` is what every end of a supply or register service makes, and the ends of HEAD_SLEEP and
HEAD_WAKE are taken by the head state. -/
theorem servicesEndAsTheirOperationGives : Obligations.ServicesEndAsTheirOperationGives := by
  refine ⟨fun h s op origin n timer value locked ready slot => ?_,
    fun h s origin n timer value r mark locked ready pending => ?_⟩
  · intro wakes ends now
    have decodes : s.decodes h = true := decodes_iff.mpr ⟨locked, ready⟩
    have closes {c : Instr} {e : ServiceEnd} {supply : SupplyState} {flag : BitVec 10} {st : Status}
        {fields : List Byte} (run : exec c s = .next (s.endService h ⟨op, origin, n, timer⟩ e).settle)
        (made : endOp h ⟨op, origin, n, timer⟩ e (s.freed h) =
          s.ended h ⟨op, origin, n, timer⟩ supply flag st fields) : ends c supply flag st fields := by
      refine run.trans (congrArg (fun u : State => Host.Outcome.next u.settle) ?_)
      cases pending : (s.head h).pendingWake with
      | none =>
        simp only [wakes, pending, endService_ends made pending]
        cases origin <;> rfl
      | some mark =>
        simp only [wakes, pending, endService_wakes made pending]
        cases origin <;> rfl
    have replies (r : ServiceResult) := exec_serviceReply decodes slot r value
    have expires := exec_serviceTimeout slot
    refine ⟨?_, ?_, ?_, ?_, fun m r other => ?_, fun m r => ?_, ?_⟩
    · rintro rfl
      exact ⟨closes (replies .good) (freed_setSupply ..), closes (replies .trip) (freed_raiseFlag ..),
        closes (replies .refused) (freed_setSupply ..), closes expires (freed_setSupply ..)⟩
    · rintro rfl
      exact ⟨fun r => closes (replies r) (freed_setSupply ..), closes expires (freed_setSupply ..)⟩
    · rintro x rfl
      exact ⟨closes (replies .good) (freed_answers ..), closes (replies .trip) (freed_answers ..),
        closes (replies .refused) (freed_answers ..), closes expires (freed_answers ..)⟩
    · rintro x v rfl
      exact ⟨closes (replies .good) (freed_answers ..), closes (replies .trip) (freed_answers ..),
        closes (replies .refused) (freed_answers ..), closes expires (freed_answers ..)⟩
    · exact exec_serviceReply_discards (fun sv own => by
        obtain rfl := Option.some.inj (slot.symm.trans own)
        exact other.symm) r value
    · exact exec_serviceReply_discards (fun sv own => by rw [onHead_own] at own; exact absurd own (by simp)) r value
    · exact exec_serviceTimeout_discards (by rw [onHead_own])
  · intro paid free
    have decodes : s.decodes h = true := decodes_iff.mpr ⟨locked, ready⟩
    have own := freed_own h s
    have unasked : ((s.freed h).head h).pendingWake = none := by rwa [own]
    have closes {c : Instr} {e : ServiceEnd} (op : ServiceOp) {st : Status} {t : State}
        (run : exec c s = .next (s.endService h ⟨op, origin, n, timer⟩ e).settle)
        (made : endOp h ⟨op, origin, n, timer⟩ e (s.freed h) = t.answerService ⟨op, origin, n, timer⟩ st [])
        (calm : (t.head h).pendingWake = none) : exec c s = .next (paid op.kind st t) := by
      refine run.trans (congrArg (fun u : State => Host.Outcome.next u.settle) ?_)
      rw [endService_eq, ← freed, made, issuePendingWake_rests (by
        rwa [(answerService_same _ st [] t).head (by decide) h])]
      cases origin <;> rfl
    refine ⟨fun slot => ?_, fun slot waking => ?_, fun slot apart => ?_⟩
    · have replies (r : ServiceResult) := exec_serviceReply decodes slot r value
      have expires := exec_serviceTimeout slot
      refine ⟨fun idle good => ?_, fun queued good => ?_, fun apart away good => ?_, ?_, ?_⟩
      · refine closes .headSleep (replies r) ((endSleep_good good value).trans (endSleepGood_sleeps (by rwa [own]))) ?_
        rwa [onHead_own]
      · refine closes .headSleep (replies r) ((endSleep_good good value).trans (endSleepGood_wakes (by rwa [own]))) ?_
        rwa [issueService_own]
      · exact closes .headSleep (replies r) ((endSleep_good good value).trans
          (endSleepGood_stays (by rwa [own]) (by rwa [own]))) unasked
      · exact closes .headSleep (replies .refused) rfl unasked
      · exact closes .headSleep expires rfl unasked
    · have replies (r : ServiceResult) := exec_serviceReply decodes slot r value
      have expires := exec_serviceTimeout slot
      have awake : ((s.freed h).head h).state = .waking := by rwa [own]
      refine ⟨fun bars good => ?_, fun i plan marked default loaded good => ?_, ?_, ?_⟩
      · refine closes (.headWake mark) (replies r) ((endWake_good good mark value).trans
          (endWakeGood_rests awake (by rwa [own]))) ?_
        rwa [setHeadState, onHead_own]
      · subst marked
        refine closes (.headWake true) (replies r) ((endWake_good good true value).trans
          (endWakeGood_joins awake (by rwa [own]) loaded)) ?_
        exact (congrArg HeadContext.pendingWake (onHead_own ..)).trans unasked
      · refine closes (.headWake mark) (replies .refused) (endWakeBad_sleeps awake) ?_
        rwa [onHead_own]
      · refine closes (.headWake mark) expires (endWakeBad_sleeps awake) ?_
        rwa [onHead_own]
    · have replies (r : ServiceResult) := exec_serviceReply decodes slot r value
      have expires := exec_serviceTimeout slot
      have asleep : ((s.freed h).head h).state ≠ .waking := by rwa [own]
      refine ⟨fun good => ?_, ?_, ?_⟩
      · exact closes (.headWake mark) (replies r) ((endWake_good good mark value).trans
          (endWakeGood_stays asleep mark)) unasked
      · refine closes (.headWake mark) (replies .refused) (endWakeBad_stays asleep) ?_
        rwa [onHead_own]
      · refine closes (.headWake mark) expires (endWakeBad_stays asleep) ?_
        rwa [onHead_own]

end Sys2Proof.Machine
end

section
/-!
HEAD_RESET: what it makes of the head's own context, of what the other blocks hold of the head, and its replies (R160,
R142).
-/

namespace Sys2Proof.Machine

open State

/-! ## The head's own context -/

namespace HeadContext

/-- The supply row of the table (R160): a supply that is not OFF falls, by an INTERNAL SUPPLY_OFF. -/
def supplyReset (c : HeadContext) : HeadContext :=
  { c with
    supply := if c.supply = .off then .off else .falling
    serviceNumber := if c.supply = .off then c.serviceNumber else c.serviceNumber + 1
    slot := if c.supply = .off then c.slot else some ⟨.supplyOff, .internal, c.serviceNumber + 1, 20000⟩ }

/-- The link row of the table (R160): a SEEKING or LOST link seeks anew. -/
def linkReset (c : HeadContext) : HeadContext :=
  { c with
    link := if c.link = .lost then .seeking else c.link
    markRun := if c.link = .lost ∨ c.link = .seeking then 0 else c.markRun
    missRun := if c.link = .locked then 0 else c.missRun
    reseek := if c.link = .lost ∨ c.link = .seeking then false else c.reseek
    flags := if c.link = .lost then c.flags ||| HeadFlag.linkChange else c.flags
    raised := if c.link = .lost then c.raised ||| HeadFlag.linkChange else c.raised }

/-- The head state row of the table, with the start filter under R155 (R160). -/
def stateReset (c : HeadContext) : HeadContext :=
  { c with
    state := match c.state with
      | .standby => .standby
      | .waking => .standby
      | _ => if c.link = .locked then .idle else .offline
    candidate := if c.state = .waking ∧ c.width ≠ .off then none else c.candidate }

/-- The whole context after HEAD_RESET (R160). -/
def afterReset (c : HeadContext) : HeadContext :=
  stateReset (linkReset (supplyReset { c with slot := none, pendingWake := none }))

section
variable {c : HeadContext}

theorem supplyReset_off (off : c.supply = .off) : c.supplyReset = c := by
  cases c
  cases off
  rfl

theorem supplyReset_on (on : c.supply ≠ .off) : c.supplyReset =
    { c with supply := .falling, serviceNumber := c.serviceNumber + 1,
             slot := some ⟨.supplyOff, .internal, c.serviceNumber + 1, 20000⟩ } := by
  simp only [supplyReset, if_neg on]

theorem linkReset_off (off : c.link = .off) : c.linkReset = c := by
  cases c
  cases off
  rfl

theorem stateReset_standby (standby : c.state = .standby) : c.stateReset = c := by
  cases c
  cases standby
  rfl

theorem stateReset_waking (waking : c.state = .waking) : c.stateReset =
    { c with state := .standby, candidate := if c.width ≠ .off then none else c.candidate } := by
  simp only [stateReset, waking, true_and]

theorem stateReset_rests (apart : c.state ≠ .standby) (awake : c.state ≠ .waking) :
    c.stateReset = { c with state := if c.link = .locked then .idle else .offline } := by
  simp only [stateReset, if_neg fun both : c.state = .waking ∧ c.width ≠ .off => awake both.1]

end

/-- The rows of the table together: the row of the head state alone reads another's field, the link, and a link is LOCKED
after its row exactly when it was before. -/
theorem afterReset_eq (c : HeadContext) : c.afterReset = { c with
    state := c.stateReset.state
    link := c.linkReset.link
    markRun := c.linkReset.markRun
    missRun := c.linkReset.missRun
    reseek := c.linkReset.reseek
    supply := c.supplyReset.supply
    serviceNumber := c.supplyReset.serviceNumber
    slot := if c.supply = .off then none else some ⟨.supplyOff, .internal, c.serviceNumber + 1, 20000⟩
    pendingWake := none
    candidate := c.stateReset.candidate
    flags := c.linkReset.flags
    raised := c.linkReset.raised } := by
  rcases c with ⟨_, _, _, _, link, _, _, _, _, _, supply⟩
  cases link <;> cases supply <;> rfl

end HeadContext

namespace State

/-- The frame of the INTERNAL SUPPLY_OFF leaves when the supply of the head is not OFF (R160, R149). -/
def resetSends (h : HeadId) (s : State) : Wire :=
  s.sending [] fun k =>
    onlyIf (k == h && (s.head h).supply != .off) (.service ((s.head h).serviceNumber + 1) .supplyOff)

section
variable (h : HeadId)

theorem resetSends_congr {s t : State} (wire : t.wire = s.wire) (links : ∀ k, (t.head k).link = (s.head k).link)
    (supply : (t.head h).supply = (s.head h).supply)
    (number : (t.head h).serviceNumber = (s.head h).serviceNumber) : t.resetSends h = s.resetSends h := by
  rw [resetSends, resetSends, supply, number, sending_congr wire links]

variable (s : State)

theorem resetSupply_eq : s.resetSupply h = { s with wire := s.resetSends h }.onHead h HeadContext.supplyReset := by
  unfold resetSupply
  split
  · rename_i off
    have nothing : s.resetSends h = s.wire := by
      rw [← sending_none, resetSends, off]
      simp only [bne_self_eq_false, Bool.and_false]
      rfl
    rw [nothing]
    exact (onHead_self h s (HeadContext.supplyReset_off off)).symm
  · rename_i on
    have sends : s.resetSends h = s.sending [] fun k =>
        onlyIf (k == h) (.service ((s.head h).serviceNumber + 1) .supplyOff) := by
      rw [resetSends, bne_iff_ne.mpr on]
      simp only [Bool.and_true]
    rw [startSupply_onHead, sends]
    exact onHead_congr h _ (HeadContext.supplyReset_on on).symm

theorem resetLink_eq : s.resetLink h = s.onHead h HeadContext.linkReset := by
  cases link : (s.head h).link <;> simp only [resetLink, link, setLink_eq, onHead_onHead]
  case off => exact (onHead_self h s (HeadContext.linkReset_off link)).symm
  all_goals exact onHead_congr h s (by simp [HeadContext.linkReset, link])

theorem resetHeadState_eq : s.resetHeadState h = s.onHead h HeadContext.stateReset := by
  unfold resetHeadState
  split
  · rename_i standby
    exact (onHead_self h s (HeadContext.stateReset_standby standby)).symm
  · rename_i waking
    rw [setStandby_pauseFilter]
    exact onHead_congr h s (HeadContext.stateReset_waking waking).symm
  · rename_i apart awake
    exact onHead_congr h s (HeadContext.stateReset_rests apart awake).symm

theorem resetContext_eq :
    resetContext h s = { s with wire := s.resetSends h }.onHead h HeadContext.afterReset := by
  have sends : (s.clearSlot h).resetSends h = s.resetSends h :=
    resetSends_congr h rfl (onHead_links h s rfl) (by rw [clearSlot, onHead_own]) (by rw [clearSlot, onHead_own])
  rw [resetContext, resetHeadState_eq, resetLink_eq, resetSupply_eq, sends, clearSlot, withWire_onHead]
  simp only [onHead_onHead]
  rfl

end

/-! ## What the other blocks hold of the head -/

section
variable (h : HeadId) (s : State)

/-- What stands before the head's own context is reset. -/
theorem resetParts_before : SameBut [.store, .arbiter, .alloc, .bins, .capture, .sites] s
    (clearParts (s.head h).enableSet h (leaveQueue h s)) :=
  (leaveQueue_same h s).comp (clearParts_same _ h _) (by decide) (by decide)

theorem resetParts_arbiter : (s.resetParts h).arbiter =
    { s.arbiter with queue := s.arbiter.queue.filter fun e => e.head != h } := by
  have context := resetContext_same h (clearParts (s.head h).enableSet h (leaveQueue h s)) .arbiter (by decide)
  have parts := clearParts_same (s.head h).enableSet h (leaveQueue h s) .arbiter (by decide)
  have use : (s.dropUse (s.headSlot h)).arbiter = s.arbiter := dropUse_same _ s .arbiter (by decide)
  refine (context.trans parts).trans ?_
  rw [leaveQueue, unqueue, onArbiter_arbiter, use]

theorem resetParts_store : (s.resetParts h).store = (s.dropUse (s.headSlot h)).store :=
  (resetContext_same h _ .store (by decide)).trans (clearParts_same _ h _ .store (by decide))

theorem resetParts_bins : (s.resetParts h).bins = upd s.bins h BinPort.withdrawn := by
  have left : (leaveQueue h s).bins = s.bins := leaveQueue_same h s .bins (by decide)
  refine (resetContext_same h (clearParts (s.head h).enableSet h (leaveQueue h s)) .bins (by decide)).trans ?_
  show upd (leaveQueue h s).bins h _ = _
  rw [left]

/-- The entries of the head are freed and its watch entries cleared (R26, R20). -/
theorem resetParts_capture : (s.resetParts h).capture = { s.capture with
    table := s.capture.table.filter fun x => x.2.head != h
    watches := Vector.ofFn fun k =>
      if s.capture.watches[k].head = h then Watch.reset else s.capture.watches[k] } := by
  have left : (leaveQueue h s).capture = s.capture := leaveQueue_same h s .capture (by decide)
  refine (resetContext_same h (clearParts (s.head h).enableSet h (leaveQueue h s)) .capture (by decide)).trans ?_
  show ((leaveQueue h s).clearCapture h).capture = _
  simp only [clearCapture, freeHeadEntries, onCapture_capture, left]
  rfl

theorem resetParts_site (k : HeadId) (i : SiteId) : (s.resetParts h).site k i =
    if k = h then .blank (if (s.head h).enableSet.getLsbD i.val then .ready else .off) else s.site k i := by
  have left : (leaveQueue h s).sites = s.sites := leaveQueue_same h s .sites (by decide)
  have context := resetContext_same h (clearParts (s.head h).enableSet h (leaveQueue h s)) .sites (by decide)
  refine (congrArg (fun v : Vector (Vector SiteContext 32) 4 => v[k][i]) context).trans ((mapSites_site ..).trans ?_)
  exact if_congr Iff.rfl rfl (congrArg (fun v : Vector (Vector SiteContext 32) 4 => v[k][i]) left)

theorem resetParts_head (k : HeadId) :
    (s.resetParts h).head k = if k = h then (s.head h).afterReset else s.head k := by
  have before := (resetParts_before h s).head (by decide)
  rw [resetParts_eq, resetContext_eq, onHead_head]
  exact if_congr Iff.rfl (congrArg _ (before h)) (before k)

theorem resetParts_wire : (s.resetParts h).wire = s.resetSends h := by
  have before := resetParts_before h s
  have heads := before.head (by decide)
  rw [resetParts_eq, resetContext_eq]
  exact resetSends_congr h (before .wire (by decide)) (fun k => by rw [heads]) (by rw [heads]) (by rw [heads])

end

theorem dropUse_classMap (o : Option SlotId) (s : State) : (s.dropUse o).store.classMap = s.store.classMap := by
  cases o <;> rfl

/-! ## The replies -/

/-- The reply to an abandoned HOST job (R80). -/
def abandoned (j : Option Job) : List Reply :=
  (j.map fun j => j.owes.map fun t => (⟨Kind.analyse, t, .abandoned, [], true⟩ : Reply)).getD []

theorem answerAbandoned_eq (j : Option Job) (s : State) : s.answerAbandoned j = { s with port := { s.port with
    replies := s.port.replies ++ abandoned j } } := by
  have unanswered : s = { s with port := { s.port with replies := s.port.replies ++ [] } } := by rw [List.append_nil]
  rcases j with _ | ⟨head, budget, force, tag | _⟩
  · exact unanswered
  · rfl
  · exact unanswered

/-- The replies after a drop, if any, in the order of log 23. -/
def resetAnswers (q : Request) (h : HeadId) (j : Option Job) (sv : Option Service) (s : State) : State :=
  ((s.answerAbandoned j).answerCancelled h sv .abandoned).answerOk q []

section
variable (q : Request) (h : HeadId) (j : Option Job) (sv : Option Service) (s : State)

theorem resetHead_eq : s.resetHead q h = ((s.dropForReset h).resetParts h).resetAnswers q h
    ((s.dropForReset h).jobOf h) ((s.dropForReset h).head h).slot := rfl

theorem resetAnswers_eq : s.resetAnswers q h j sv = s.onPort fun p => { p with
    replies := p.replies ++ abandoned j ++ s.cancelled h sv .abandoned ++ [⟨q.kind, q.tag, .ok, [], true⟩] } := by
  rw [resetAnswers, answerAbandoned_eq, answerCancelled_eq]
  rfl

theorem resetAnswers_same : SameBut [.port] s (s.resetAnswers q h j sv) := by
  rw [resetAnswers_eq]
  exact onPort_same _ s

end

theorem headResetRequest_eq (q : Request) (h : HeadId) (s : State) :
    s.headResetRequest q (byteOf h.val) = (s.resetHead q h).settle := by
  simp only [headResetRequest, headOf_byteOf]

end State

/-! ## The obligation -/

/-- Settles O26: the drop first, then each block by what HEAD_RESET makes of it. -/
theorem headResetBringsTheHeadToRest : Obligations.HeadResetBringsTheHeadToRest := by
  intro tag h q p s owner s0 d c
  have run := owner.runs (headResetRequest · (byteOf h.val)) rfl rfl
  have drop : s0.dropForReset h = d := rfl
  rw [headResetRequest_eq, resetHead_eq, drop] at run
  clear_value d
  have parts := resetParts_same h d
  have answers := resetAnswers_same q h (d.jobOf h) c.slot (d.resetParts h)
  have port := congrArg State.port (resetAnswers_eq q h (d.jobOf h) c.slot (d.resetParts h))
  generalize (d.resetParts h).resetAnswers q h (d.jobOf h) c.slot = u at run answers port
  have same : SameBut [.store, .arbiter, .alloc, .bins, .capture, .sites, .heads, .wire, .port] d u :=
    parts.comp answers (by decide) (by decide)
  have capture : u.capture = _ := (answers .capture (by decide)).trans (resetParts_capture h d)
  have store : u.store = _ := (answers .store (by decide)).trans (resetParts_store h d)
  have sites (k : HeadId) (i : SiteId) : u.site k i = (d.resetParts h).site k i :=
    congrArg (fun v : Vector (Vector SiteContext 32) 4 => v[k][i]) (answers .sites (by decide))
  have heads := answers.head (by decide)
  refine ⟨u, run, (answers .arbiter (by decide)).trans (resetParts_arbiter h d),
    (answers .alloc (by decide)).trans (resetParts_alloc h d),
    (answers .bins (by decide)).trans (resetParts_bins h d), ?_, fun k => ?_, ?_, ?_, fun i => ?_,
    fun k other => ⟨?_, fun i => ?_⟩, fun i => ⟨?_, ?_⟩, ?_, ?_, same .run (by decide), same .gates (by decide),
    same .lines (by decide), (answers .wire (by decide)).trans (resetParts_wire h d)⟩
  · exact congrArg CaptureUnit.table capture
  · exact (congrArg (fun u : CaptureUnit => u.watches[k]) capture).trans (ofFn_get _ k)
  · have raises := congrArg CaptureUnit.raises capture
    exact raises
  · exact (congrArg PlanStore.classMap store).trans (dropUse_classMap _ d)
  · exact (sites h i).trans ((resetParts_site h d h i).trans (if_pos rfl))
  · exact (heads k).trans ((resetParts_head h d k).trans (if_neg other))
  · exact (sites k i).trans ((resetParts_site h d k i).trans (if_neg other))
  · exact (congrArg (fun v : PlanStore => v.slots[i].record) store).trans (congrFun (dropUse_planAt _ d) i)
  · refine (congrArg (fun v : PlanStore => v.slots[i].useCount) store).trans ((dropUse_useCount _ d i).trans ?_)
    split <;> rfl
  · exact (heads h).trans ((resetParts_head h d h).trans ((if_pos rfl).trans (HeadContext.afterReset_eq c)))
  · have before : (d.resetParts h).port = d.port := parts .port (by decide)
    rw [port, onPort_port, before, heads h]
    rfl

end Sys2Proof.Machine
end
